-- ==== Sys2Proof/Word.lean ====
section
/-! DEFINITION. Word.lean: the widths of the machine's words (spec 00_scope.md R6, R8; 10_state.md R20 to R25). -/

namespace Sys2Proof

/-- A byte: a general register, a timer, a byte of memory, the field `kk` (R8, R20, R31). -/
abbrev Byte := BitVec 8

/-- A 16-bit word: an opcode, `PC`, `I`, a stack entry (R22, R23, R24, R70). -/
abbrev Word := BitVec 16

/-- A 12-bit address field `nnn` (R8). -/
abbrev Addr := BitVec 12

/-- A 4-bit register number, the fields `x` and `y` (R8, R71). -/
abbrev RegIx := BitVec 4

/-- A 4-bit count of sprite rows, the field `n` of `DRW` (R8, R71). -/
abbrev Count := BitVec 4

end Sys2Proof
end

