-- ==== Sys2Proof/Machine/Font.lean ====
section
/-! DEFINITION. Machine/Font.lean: the default of the parameter `FONT` (70_reset_and_hazards.md R261, 92_eei_decisions.md D21;
PRESUMED, log 5). -/

namespace Sys2Proof.Machine

/-- The default font: 16 glyphs of 5 bytes, glyph d at 0x050 + 5d, the top row first (R261). -/
def defaultFont : Vector Byte 80 := #v[
  0xF0, 0x90, 0x90, 0x90, 0xF0,   -- 0
  0x20, 0x60, 0x20, 0x20, 0x70,   -- 1
  0xF0, 0x10, 0xF0, 0x80, 0xF0,   -- 2
  0xF0, 0x10, 0xF0, 0x10, 0xF0,   -- 3
  0x90, 0x90, 0xF0, 0x10, 0x10,   -- 4
  0xF0, 0x80, 0xF0, 0x10, 0xF0,   -- 5
  0xF0, 0x80, 0xF0, 0x90, 0xF0,   -- 6
  0xF0, 0x10, 0x20, 0x40, 0x40,   -- 7
  0xF0, 0x90, 0xF0, 0x90, 0xF0,   -- 8
  0xF0, 0x90, 0xF0, 0x10, 0xF0,   -- 9
  0xF0, 0x90, 0xF0, 0x90, 0x90,   -- A
  0xE0, 0x90, 0xE0, 0x90, 0xE0,   -- B
  0xF0, 0x80, 0x80, 0x80, 0xF0,   -- C
  0xE0, 0x90, 0x90, 0x90, 0xE0,   -- D
  0xF0, 0x80, 0xF0, 0x80, 0xF0,   -- E
  0xF0, 0x80, 0xF0, 0x80, 0x80]   -- F

end Sys2Proof.Machine
end

