-- ==== Sys2Proof/Config.lean ====
section
/-! DEFINITION. Config.lean: the open parameter of the machine and the values its environment chooses freely. Each is a constant
without a body: nothing can be proved of its value, so a theorem holds for every value. -/

namespace Sys2Proof

/-- `CLOCK_HZ - 1` of the machine that `State.reset` describes (00_scope.md R5 row 11: OPEN, no default; log 4). -/
opaque Config.clockHzLessOne : Nat

/-- `CLOCK_HZ`, steps per second: some positive integer (00_scope.md R5, 92_eei_decisions.md D20; log 4). -/
def Config.clockHz : Nat := Config.clockHzLessOne + 1

/-- FREE VALUE: the 16 key flags the host gives to the step of this number, where `State.inputs` lays out none
(60_exceptions.md R240: "Any of the 65536 combinations is legal"; log 7). -/
opaque Config.hostKeys : Nat → BitVec 16

/-- FREE VALUE: the random byte given to the step of this number, where `State.inputs` lays out none
(60_exceptions.md R242: "any byte at any `RND` step, with no relation between successive values"; log 7). -/
opaque Config.hostRand : Nat → BitVec 8

end Sys2Proof
end

