-- ==== Sys2Proof/Syntax.lean ====
section
/-! DEFINITION. Syntax.lean: the instructions, one constructor per row of spec/opcode_table.json in the table's order
(30_encoding.md R75). -/

namespace Sys2Proof

/-- The 35 instruction kinds with the operands of their patterns (R71, R75). `shr` and `shl` carry only `x` (R79). -/
inductive Instr where
  /-- `CLS`, 00E0. -/
  | cls
  /-- `RET`, 00EE. -/
  | ret
  /-- `SYS`, 0nnn other than 00E0 and 00EE (R77). -/
  | sys (nnn : Addr)
  /-- `JP`, 1nnn. -/
  | jp (nnn : Addr)
  /-- `CALL`, 2nnn. -/
  | call (nnn : Addr)
  /-- `SE_IMM`, 3xkk. -/
  | seImm (x : RegIx) (kk : Byte)
  /-- `SNE_IMM`, 4xkk. -/
  | sneImm (x : RegIx) (kk : Byte)
  /-- `SE_REG`, 5xy0. -/
  | seReg (x y : RegIx)
  /-- `SNE_REG`, 9xy0. -/
  | sneReg (x y : RegIx)
  /-- `LD_IMM`, 6xkk. -/
  | ldImm (x : RegIx) (kk : Byte)
  /-- `ADD_IMM`, 7xkk. -/
  | addImm (x : RegIx) (kk : Byte)
  /-- `LD_REG`, 8xy0. -/
  | ldReg (x y : RegIx)
  /-- `OR`, 8xy1. -/
  | orReg (x y : RegIx)
  /-- `AND`, 8xy2. -/
  | andReg (x y : RegIx)
  /-- `XOR`, 8xy3. -/
  | xorReg (x y : RegIx)
  /-- `ADD_REG`, 8xy4. -/
  | addReg (x y : RegIx)
  /-- `SUB`, 8xy5. -/
  | sub (x y : RegIx)
  /-- `SHR`, 8xy6, any y. -/
  | shr (x : RegIx)
  /-- `SUBN`, 8xy7. -/
  | subn (x y : RegIx)
  /-- `SHL`, 8xyE, any y. -/
  | shl (x : RegIx)
  /-- `LD_I`, Annn. -/
  | ldI (nnn : Addr)
  /-- `JP_V0`, Bnnn. -/
  | jpV0 (nnn : Addr)
  /-- `RND`, Cxkk. -/
  | rnd (x : RegIx) (kk : Byte)
  /-- `DRW`, Dxyn. -/
  | drw (x y : RegIx) (n : Count)
  /-- `SKP`, Ex9E. -/
  | skp (x : RegIx)
  /-- `SKNP`, ExA1. -/
  | sknp (x : RegIx)
  /-- `LD_VX_DT`, Fx07. -/
  | ldVxDt (x : RegIx)
  /-- `LD_VX_K`, Fx0A. -/
  | ldVxK (x : RegIx)
  /-- `LD_DT_VX`, Fx15. -/
  | ldDtVx (x : RegIx)
  /-- `LD_ST_VX`, Fx18. -/
  | ldStVx (x : RegIx)
  /-- `ADD_I`, Fx1E. -/
  | addI (x : RegIx)
  /-- `LD_F`, Fx29. -/
  | ldF (x : RegIx)
  /-- `LD_B`, Fx33. -/
  | ldB (x : RegIx)
  /-- `ST_REGS`, Fx55. -/
  | stRegs (x : RegIx)
  /-- `LD_REGS`, Fx65. -/
  | ldRegs (x : RegIx)
  deriving DecidableEq, Repr

end Sys2Proof
end

