-- ==== Sys2Proof/Decode.lean ====
section
/-! DEFINITION. Decode.lean: the decoder of 30_encoding.md R74, total on words and on bytes, and the encoder written from the
formats and the opcode map of R72 and R75. -/

namespace Sys2Proof

/-- Why bytes decode to no instruction. -/
inductive DecodeError where
  /-- One of the 17488 words that match no pattern (R76). Safe: the machine stops where the spec says it does. -/
  | illegal (op : Word)
  /-- Fewer than the two bytes every instruction has (R70). Raised by `decodeBytes` only; a fetch always has two bytes. Safe. -/
  | truncated
  deriving DecidableEq, Repr

/-! ### Fields (30_encoding.md R71) -/

/-- `n3 = op[15:12]`, the family. -/
def fieldN3 (op : Word) : BitVec 4 := op.extractLsb' 12 4
/-- `x = op[11:8]`. -/
def fieldX (op : Word) : RegIx := op.extractLsb' 8 4
/-- `y = op[7:4]`. -/
def fieldY (op : Word) : RegIx := op.extractLsb' 4 4
/-- `n = op[3:0]`. -/
def fieldN (op : Word) : Count := op.extractLsb' 0 4
/-- `kk = op[7:0]`. -/
def fieldKK (op : Word) : Byte := op.extractLsb' 0 8
/-- `nnn = op[11:0]`. -/
def fieldNNN (op : Word) : Addr := op.extractLsb' 0 12

/-! ### Decoder (30_encoding.md R74) -/

/-- Family 0: `CLS`, `RET`, every other word `SYS` (R77). -/
def decodeFamily0 (op : Word) : Instr :=
  if op = 0x00E0 then .cls else if op = 0x00EE then .ret else .sys (fieldNNN op)

/-- Family 8: the sub-opcode is `n` (R74). -/
def decodeFamily8 (op : Word) : Except DecodeError Instr :=
  match fieldN op with
  | 0x0#4 => .ok (.ldReg (fieldX op) (fieldY op))
  | 0x1#4 => .ok (.orReg (fieldX op) (fieldY op))
  | 0x2#4 => .ok (.andReg (fieldX op) (fieldY op))
  | 0x3#4 => .ok (.xorReg (fieldX op) (fieldY op))
  | 0x4#4 => .ok (.addReg (fieldX op) (fieldY op))
  | 0x5#4 => .ok (.sub (fieldX op) (fieldY op))
  | 0x6#4 => .ok (.shr (fieldX op))
  | 0x7#4 => .ok (.subn (fieldX op) (fieldY op))
  | 0xE#4 => .ok (.shl (fieldX op))
  | _ => .error (.illegal op)

/-- Family E: the sub-opcode is `kk` (R74). -/
def decodeFamilyE (op : Word) : Except DecodeError Instr :=
  match fieldKK op with
  | 0x9E#8 => .ok (.skp (fieldX op))
  | 0xA1#8 => .ok (.sknp (fieldX op))
  | _ => .error (.illegal op)

/-- Family F: the sub-opcode is `kk` (R74). -/
def decodeFamilyF (op : Word) : Except DecodeError Instr :=
  match fieldKK op with
  | 0x07#8 => .ok (.ldVxDt (fieldX op))
  | 0x0A#8 => .ok (.ldVxK (fieldX op))
  | 0x15#8 => .ok (.ldDtVx (fieldX op))
  | 0x18#8 => .ok (.ldStVx (fieldX op))
  | 0x1E#8 => .ok (.addI (fieldX op))
  | 0x29#8 => .ok (.ldF (fieldX op))
  | 0x33#8 => .ok (.ldB (fieldX op))
  | 0x55#8 => .ok (.stRegs (fieldX op))
  | 0x65#8 => .ok (.ldRegs (fieldX op))
  | _ => .error (.illegal op)

/-- The decoder: a function of the 16 bits alone (R70, R74). -/
def decode (op : Word) : Except DecodeError Instr :=
  match fieldN3 op with
  | 0x0#4 => .ok (decodeFamily0 op)
  | 0x1#4 => .ok (.jp (fieldNNN op))
  | 0x2#4 => .ok (.call (fieldNNN op))
  | 0x3#4 => .ok (.seImm (fieldX op) (fieldKK op))
  | 0x4#4 => .ok (.sneImm (fieldX op) (fieldKK op))
  | 0x5#4 => if fieldN op = 0 then .ok (.seReg (fieldX op) (fieldY op)) else .error (.illegal op)
  | 0x6#4 => .ok (.ldImm (fieldX op) (fieldKK op))
  | 0x7#4 => .ok (.addImm (fieldX op) (fieldKK op))
  | 0x8#4 => decodeFamily8 op
  | 0x9#4 => if fieldN op = 0 then .ok (.sneReg (fieldX op) (fieldY op)) else .error (.illegal op)
  | 0xA#4 => .ok (.ldI (fieldNNN op))
  | 0xB#4 => .ok (.jpV0 (fieldNNN op))
  | 0xC#4 => .ok (.rnd (fieldX op) (fieldKK op))
  | 0xD#4 => .ok (.drw (fieldX op) (fieldY op) (fieldN op))
  | 0xE#4 => decodeFamilyE op
  | _ => decodeFamilyF op

/-- The opcode of two consecutive bytes, the lower address first: big-endian (20_memory.md R54). -/
def wordOfBytes (hi lo : Byte) : Word := hi ++ lo

/-- The byte at the lower address, `op[15:8]` (30_encoding.md R70). -/
def hiByte (op : Word) : Byte := op.extractLsb' 8 8
/-- The byte at the higher address, `op[7:0]` (30_encoding.md R70). -/
def loByte (op : Word) : Byte := op.extractLsb' 0 8

/-- The instruction at the head of a byte stream, with the rest of the stream (R70). -/
def decodeBytes : List Byte → Except DecodeError (Instr × List Byte)
  | hi :: lo :: rest =>
    match decode (wordOfBytes hi lo) with
    | .ok i => .ok (i, rest)
    | .error e => .error e
  | [_] => .error .truncated
  | [] => .error .truncated

/-! ### Encoder (30_encoding.md R72, R75) -/

/-- Format `A`: family and address. -/
def formatA (n3 : BitVec 4) (nnn : Addr) : Word := n3 ++ nnn
/-- Format `XK`: family, register, byte; also format `X`, whose byte is the sub-opcode. -/
def formatXK (n3 : BitVec 4) (x : RegIx) (kk : Byte) : Word := n3 ++ x ++ kk
/-- Format `XYN`: family, two registers, count; also format `XY`, whose count is the sub-opcode. -/
def formatXYN (n3 : BitVec 4) (x y : RegIx) (n : Count) : Word := n3 ++ x ++ y ++ n

/-- The word of an instruction; `SHR` and `SHL` are assembled with y = 0 (R81; log 32). -/
def encode : Instr → Word
  | .cls => 0x00E0
  | .ret => 0x00EE
  | .sys nnn => formatA 0x0 nnn
  | .jp nnn => formatA 0x1 nnn
  | .call nnn => formatA 0x2 nnn
  | .seImm x kk => formatXK 0x3 x kk
  | .sneImm x kk => formatXK 0x4 x kk
  | .seReg x y => formatXYN 0x5 x y 0x0
  | .sneReg x y => formatXYN 0x9 x y 0x0
  | .ldImm x kk => formatXK 0x6 x kk
  | .addImm x kk => formatXK 0x7 x kk
  | .ldReg x y => formatXYN 0x8 x y 0x0
  | .orReg x y => formatXYN 0x8 x y 0x1
  | .andReg x y => formatXYN 0x8 x y 0x2
  | .xorReg x y => formatXYN 0x8 x y 0x3
  | .addReg x y => formatXYN 0x8 x y 0x4
  | .sub x y => formatXYN 0x8 x y 0x5
  | .shr x => formatXYN 0x8 x 0x0 0x6
  | .subn x y => formatXYN 0x8 x y 0x7
  | .shl x => formatXYN 0x8 x 0x0 0xE
  | .ldI nnn => formatA 0xA nnn
  | .jpV0 nnn => formatA 0xB nnn
  | .rnd x kk => formatXK 0xC x kk
  | .drw x y n => formatXYN 0xD x y n
  | .skp x => formatXK 0xE x 0x9E
  | .sknp x => formatXK 0xE x 0xA1
  | .ldVxDt x => formatXK 0xF x 0x07
  | .ldVxK x => formatXK 0xF x 0x0A
  | .ldDtVx x => formatXK 0xF x 0x15
  | .ldStVx x => formatXK 0xF x 0x18
  | .addI x => formatXK 0xF x 0x1E
  | .ldF x => formatXK 0xF x 0x29
  | .ldB x => formatXK 0xF x 0x33
  | .stRegs x => formatXK 0xF x 0x55
  | .ldRegs x => formatXK 0xF x 0x65

/-- An instruction's two bytes as they lie in memory (R70; 20_memory.md R54). -/
def encodeBytes (i : Instr) : List Byte := [hiByte (encode i), loByte (encode i)]

/-! ### The opcode table's numbering of bits -/

/-- The word of an instruction whose low `nbits` bits are those of `w` and whose other bits are 0. -/
def tableWord (nbits w : Nat) : Word := BitVec.ofNat 16 (w % 2 ^ nbits)

/-- The instruction the decoder reads from that word, laid out in memory big-endian. -/
def decodeTableWord (nbits w : Nat) : Option Instr :=
  match decodeBytes [hiByte (tableWord nbits w), loByte (tableWord nbits w)] with
  | .ok (i, _) => some i
  | .error _ => none

end Sys2Proof
end

