-- ==== Sys2Proof/Machine/State.lean ====
section
/-! DEFINITION. Machine/State.lean: the state of the machine as plain data (10_state.md R20 to R36), the reasons a step or a
construction can stop, and the state after construction (10_state.md R40). -/

namespace Sys2Proof.Machine

/-- Memory: (address, byte) pairs, addresses strictly rising and below 4096, no byte equal to what an unlisted address reads
as (10_state.md R31; log 28). `Memory.wf` says so; the operations stand in Machine/Ops.lean. -/
abbrev Memory := List Host.Cell

/-- The display: 32 rows, the top row first, of 64 cells, the left cell first; true is set (10_state.md R26). -/
abbrev Display := Vector (Vector Bool 64) 32

/-- `TIMER_PHASE`: where in a step the timer phase runs (00_scope.md R5 row 19; 60_exceptions.md R235; log 6). -/
inductive TimerPhase where
  /-- After the instruction of the same step: the spec's choice. -/
  | afterExecute
  /-- Before the fetch of the same step: the alternative the spec names. -/
  | beforeFetch
  deriving DecidableEq, Repr

/-- The inputs of one step (40_step_cycle.md R100; 60_exceptions.md R239). -/
structure StepInput where
  /-- Flag k is 1 when key k is pressed (60_exceptions.md R240). -/
  keys : BitVec 16
  /-- The random byte (60_exceptions.md R242). -/
  rand : Byte
  deriving DecidableEq, Repr

/-- The state of the machine. The last three fields are the model's own: a step's output and inputs, which the spec does not
store (10_state.md R32; logs 7 and 8). -/
structure State where
  /-- `MEM` (10_state.md R31). -/
  mem : Memory
  /-- `V[0]` to `V[15]`; `V[15]` is the flag `VF` (10_state.md R20, R21). -/
  v : Vector Byte 16
  /-- `PC`, below 4096 at every step boundary (10_state.md R22; log 11). -/
  pc : Word
  /-- `I`, below 4096 at every step boundary (10_state.md R23; log 11). -/
  index : Word
  /-- `STACK[0]` to `STACK[15]` (10_state.md R24). -/
  stack : Vector Word 16
  /-- `SP`, the number of live entries, 0 to 16 (10_state.md R25; log 10). -/
  sp : Fin 17
  /-- `DISP` (10_state.md R26). -/
  disp : Display
  /-- `DT` (10_state.md R27). -/
  dt : Byte
  /-- `ST` (10_state.md R28). -/
  st : Byte
  /-- `ACC`, in units of 1/(60 x `CLOCK_HZ`) second (10_state.md R29; log 19). -/
  acc : Nat
  /-- `CLOCK_HZ`, the constructor's argument, constant over a run (10_state.md R30, R40; log 4). -/
  clockHz : Nat
  /-- `TIMER_PHASE`, constant over a run (00_scope.md R5; log 6). -/
  timerPhase : TimerPhase
  /-- MODEL'S OWN: the frame the last step put out, if it did (40_step_cycle.md R107; log 8). -/
  frame : Option Display
  /-- MODEL'S OWN: the inputs the host has laid out for the coming steps, the next step's first (log 7). -/
  inputs : List StepInput
  /-- MODEL'S OWN: how many steps have been taken, which numbers the free inputs of Config (log 7). -/
  inputIndex : Nat
  deriving DecidableEq, Repr

/-- The two causes of `StackFault` (60_exceptions.md R220). -/
inductive StackCause where
  /-- Call depth above 16. -/
  | overflow
  /-- Return with an empty stack. -/
  | underflow
  deriving DecidableEq, Repr

/-- The faults, exactly the spec's three (60_exceptions.md R220, R226). -/
inductive Fault where
  /-- Raised by `step` when the word fetched matches no pattern, with that word and the address it was fetched from
  (60_exceptions.md R221). Safe: the spec stops there too. -/
  | decodeError (op : Word) (addr : Word)
  /-- Raised by `CALL` with a full stack and by `RET` with an empty one (60_exceptions.md R222, R223). Safe: the spec stops
  there too. -/
  | stackFault (cause : StackCause)
  /-- Raised by `construct` for an image longer than 3584 bytes, with its length (60_exceptions.md R224). Safe: no machine
  results. -/
  | loadError (length : Nat)
  deriving DecidableEq, Repr

/-- What the model refuses. No step of the finished model is refused. -/
inductive Refusal where
  /-- Raised by an arm of `exec` whose instruction has no meaning yet: none now. Safe. -/
  | notModelled (mnemonic : String)
  /-- Raised by `construct` for `CLOCK_HZ` = 0, which the spec refuses (70_reset_and_hazards.md R260; log 25). Safe. -/
  | clockZero
  deriving DecidableEq, Repr

/-- The machine right after construction with an empty image (10_state.md R40): memory at its reset bytes, `PC` at 0x200, a
full timer period, everything else 0 (logs 1 to 6). -/
def State.reset : State where
  mem := []
  v := Vector.replicate 16 0
  pc := 0x200
  index := 0
  stack := Vector.replicate 16 0
  sp := 0
  disp := Vector.replicate 32 (Vector.replicate 64 false)
  dt := 0
  st := 0
  acc := Config.clockHz
  clockHz := Config.clockHz
  timerPhase := .afterExecute
  frame := none
  inputs := []
  inputIndex := 0

end Sys2Proof.Machine
end

