-- ==== Sys2Proof/Machine/Ops.lean ====
section
/-! DEFINITION. Machine/Ops.lean: the named operations over memory, registers, stack, timers and the step's inputs, and the one
way a fault is raised. -/

namespace Sys2Proof.Machine

/-! ### Constants (00_scope.md R5) -/

/-- `MEM_SIZE`. -/
def memSize : Nat := 4096
/-- `FONT_BASE`. -/
abbrev fontBase : Nat := 0x050
/-- `PROG_BASE`. -/
def progBase : Nat := 0x200
/-- `MAX_IMAGE`. -/
def maxImage : Nat := 3584
/-- The step duration in units of `ACC` (60_exceptions.md R233). -/
def stepUnits : Nat := 60
/-- The number of the flag register `VF` (10_state.md R21). -/
abbrev vf : RegIx := 15

/-! ### Memory as data -/

/-- What an address that is not listed reads as: its byte after construction with the default font and an empty image
(10_state.md R40, 20_memory.md R52; logs 5 and 28). -/
def Memory.unlisted (a : Nat) : Byte :=
  if fontBase ≤ a then defaultFont.toList.getD (a - fontBase) 0 else 0

/-- The byte at an address. -/
def Memory.read : Memory → Nat → Byte
  | [], a => Memory.unlisted a
  | (k, b) :: rest, a => if k = a then b else Memory.read rest a

/-- Put a byte in front of entries of higher address, unless it is what the unlisted address reads as. -/
def Memory.cons (a : Nat) (b : Byte) (rest : Memory) : Memory :=
  if b = Memory.unlisted a then rest else (a, b) :: rest

/-- Write the byte at an address, keeping the canonical form. -/
def Memory.write : Memory → Nat → Byte → Memory
  | [], a, b => Memory.cons a b []
  | (k, c) :: rest, a, b =>
    if a < k then Memory.cons a b ((k, c) :: rest)
    else if a = k then Memory.cons a b rest
    else (k, c) :: Memory.write rest a b

/-- The canonical form: addresses strictly rising, below 4096, no byte equal to what an unlisted address reads as (log 28). -/
abbrev Memory.wf (m : Memory) : Prop :=
  m.Pairwise (fun c d => c.1 < d.1) ∧ ∀ c ∈ m, c.1 < memSize ∧ c.2 ≠ Memory.unlisted c.1

/-! ### The access primitives (20_memory.md R51, R63) -/

/-- `MemRead(a, 1)`: every address is reduced mod 4096. -/
def State.memRead (s : State) (a : Nat) : Byte := s.mem.read (a % memSize)

/-- `MemWrite(a, 1, v)`: every address is reduced mod 4096. -/
def State.memWrite (s : State) (a : Nat) (b : Byte) : State := { s with mem := s.mem.write (a % memSize) b }

/-- `MemRead(PC, 2)`, the fetch: the byte at `PC` is the high byte (40_step_cycle.md R102). -/
def State.fetchWord (s : State) : Word := wordOfBytes (s.memRead s.pc.toNat) (s.memRead (s.pc.toNat + 1))

/-! ### General registers (10_state.md R20) -/

/-- `V[x]`. -/
def State.getV (s : State) (x : RegIx) : Byte := s.v[x.toNat]'x.isLt

/-- `V[x] <- b`. -/
def State.setV (s : State) (x : RegIx) (b : Byte) : State := { s with v := s.v.set x.toNat b x.isLt }

/-! ### Program counter and index register (10_state.md R22, R23; 42_load_alu.md R153) -/

/-- `a & 0xFFF`. -/
def mask12 (a : Word) : Word := a &&& 0xFFF

/-- `PC <- t & 0xFFF`. -/
def State.setPc (s : State) (t : Word) : State := { s with pc := mask12 t }

/-- `PC <- (PC + 2) & 0xFFF`: the fetch advance (40_step_cycle.md R103). -/
def State.advancePc (s : State) : State := s.setPc (s.pc + 2)

/-- A skip: `PC <- (PC + 2) & 0xFFF` if the condition holds (41_control_transfer.md R130). -/
def State.skipIf (s : State) (c : Bool) : State := { s with pc := if c then mask12 (s.pc + 2) else s.pc }

/-- `PC <- (PC - 2) & 0xFFF`: the rewind of a stalled key wait (45_keypad_timers.md R203). -/
def State.rewindPc (s : State) : State := s.setPc (s.pc - 2)

/-- `I <- a & 0xFFF`. -/
def State.setIndex (s : State) (a : Word) : State := { s with index := mask12 a }

/-! ### Faults (60_exceptions.md R228) -/

/-- Fault entry: the step returns the fault instead of a next state, so nothing the step wrote is kept. There is no vector, no
saved `PC` and no return (60_exceptions.md R228, R229; log 9). -/
def raise (f : Fault) : Host.Outcome State Fault Refusal := .fault f

/-! ### Call stack (10_state.md R24, R25) -/

/-- `STACK[SP] <- w; SP <- SP + 1`. -/
def State.push (s : State) (w : Word) (h : s.sp.val < 16) : State :=
  { s with stack := s.stack.set s.sp.val w h, sp := ⟨s.sp.val + 1, by omega⟩ }

/-- The entry `STACK[SP - 1]` that a pop reads. -/
def State.top (s : State) (_h : s.sp.val ≠ 0) : Word := s.stack[s.sp.val - 1]'(by omega)

/-- `SP <- SP - 1`; the popped entry keeps its value (log 35). -/
def State.pop (s : State) : State := { s with sp := ⟨s.sp.val - 1, by omega⟩ }

/-! ### Register blocks in memory (43_index_memory.md R165, R166) -/

/-- `for k = 0 to count - 1: MemWrite(I + k, 1, V[k])`. -/
def State.storeRegs (s : State) : Nat → State
  | 0 => s
  | k + 1 => (s.storeRegs k).memWrite (s.index.toNat + k) (s.getV (BitVec.ofNat 4 k))

/-- `for k = 0 to count - 1: V[k] <- MemRead(I + k, 1)`. -/
def State.loadRegs (s : State) : Nat → State
  | 0 => s
  | k + 1 => (s.loadRegs k).setV (BitVec.ofNat 4 k) (s.memRead (s.index.toNat + k))

/-- Copy bytes into memory at consecutive addresses (70_reset_and_hazards.md R260, R262). -/
def State.loadBytes (s : State) (a : Nat) : List Byte → State
  | [] => s
  | b :: rest => (s.memWrite a b).loadBytes (a + 1) rest

/-! ### Display and frame (10_state.md R26; 40_step_cycle.md R107) -/

/-- The whole display is replaced. -/
def State.setDisp (s : State) (d : Display) : State := { s with disp := d }

/-- `emit_frame`: the step puts out a copy of the display. -/
def State.emitFrame (s : State) : State := { s with frame := some s.disp }

/-! ### Timers (60_exceptions.md R234) -/

/-- `DT <- b`; `ACC` is untouched (45_keypad_timers.md R205). -/
def State.setDt (s : State) (b : Byte) : State := { s with dt := b }

/-- `ST <- b`; `ACC` is untouched (45_keypad_timers.md R206). -/
def State.setSt (s : State) (b : Byte) : State := { s with st := b }

/-- A timer's decrement, saturating at 0. -/
def decTimer (t : Byte) : Byte := if t = 0 then 0 else t - 1

/-- What is left of the period after one more step duration, saturating at 0. -/
def State.accLeft (s : State) : Nat := s.acc - min s.acc stepUnits

/-- This timer phase is a tick. -/
def State.ticks (s : State) : Bool := s.accLeft == 0

/-- The timer phase: on a tick both timers fall by one and `ACC` is reloaded with a full period, else `ACC` falls by one step
duration (60_exceptions.md R234; log 19). -/
def State.runTimers (s : State) : State :=
  { s with
    dt := if s.ticks then decTimer s.dt else s.dt
    st := if s.ticks then decTimer s.st else s.st
    acc := if s.ticks then s.clockHz else s.accLeft }

/-! ### Inputs of the step (40_step_cycle.md R100, R110; log 7) -/

/-- The key snapshot of this step. -/
def State.keys (s : State) : BitVec 16 :=
  match s.inputs with
  | [] => Config.hostKeys s.inputIndex
  | i :: _ => i.keys

/-- The random byte of this step. -/
def State.rand (s : State) : Byte :=
  match s.inputs with
  | [] => Config.hostRand s.inputIndex
  | i :: _ => i.rand

/-- This step's inputs are over. -/
def State.nextInputs (s : State) : State := { s with inputs := s.inputs.tail, inputIndex := s.inputIndex + 1 }

/-! ### What a step does around the instruction (40_step_cycle.md R101) -/

/-- The timer phase, if `TIMER_PHASE` puts it here (60_exceptions.md R235). -/
def State.timersAt (s : State) (p : TimerPhase) : State := if s.timerPhase = p then s.runTimers else s

/-- Before the decode: the frame output of the last step is gone, the timer phase runs if `TIMER_PHASE` is before_fetch, and
`PC` moves past the word (40_step_cycle.md R101, R103, R107). -/
def State.beginStep (s : State) : State :=
  let t := s.timersAt .beforeFetch
  { t with frame := none, pc := mask12 (s.pc + 2) }

/-- After the execute phase: the timer phase runs if `TIMER_PHASE` is after_execute, and the step's inputs are over
(40_step_cycle.md R101, R106, R110). -/
def State.endStep (s : State) : State := (s.timersAt .afterExecute).nextInputs

end Sys2Proof.Machine
end

