-- ==== Sys2Proof/Machine/Operands.lean ====
section
/-! DEFINITION. Machine/Operands.lean: every value an instruction forms from its fields before it acts: jump targets, key
numbers, addresses, decimal digits, sprite origin and rows. -/

namespace Sys2Proof.Machine

/-- `zext_16(nnn)`, an absolute target or address (30_encoding.md R73). -/
def zextAddr (nnn : Addr) : Word := nnn.setWidth 16

/-- `zext_16(b)`. -/
def zextByte (b : Byte) : Word := b.setWidth 16

/-- The target of `JP_V0` before the mask (41_control_transfer.md R129). -/
def State.offsetTarget (s : State) (nnn : Addr) : Word := zextAddr nnn + zextByte (s.getV 0)

/-- The key number `V[x] & 0xF` of `SKP` and `SKNP` (45_keypad_timers.md R201; log 13). -/
def State.keyNumber (s : State) (x : RegIx) : Nat := (s.getV x &&& 0xF).toNat

/-- `keys[k]` for that number. -/
def State.keyPressed (s : State) (x : RegIx) : Bool := s.keys.getLsbD (s.keyNumber x)

/-- The least k with `keys[k] = 1`, if any key is pressed (45_keypad_timers.md R203; log 14). -/
def leastPressed (keys : BitVec 16) : Option Byte :=
  ((List.range 16).find? (fun k => keys.getLsbD k)).map (BitVec.ofNat 8)

/-- The glyph address of `LD_F` before the mask: 0x050 + 5 x `V[x]`, the whole byte (43_index_memory.md R162; log 17). -/
def State.glyphAddr (s : State) (x : RegIx) : Word := BitVec.ofNat 16 fontBase + 5 * zextByte (s.getV x)

/-- The hundreds digit (43_index_memory.md R163). -/
def hundreds (v : Byte) : Byte := BitVec.ofNat 8 (v.toNat / 100)
/-- The tens digit (43_index_memory.md R163). -/
def tens (v : Byte) : Byte := BitVec.ofNat 8 (v.toNat / 10 % 10)
/-- The units digit (43_index_memory.md R163). -/
def units (v : Byte) : Byte := BitVec.ofNat 8 (v.toNat % 10)

/-- The sprite's column origin, `V[x] mod 64` (44_display.md R183). -/
def State.originX (s : State) (x : RegIx) : Nat := (s.getV x).toNat % 64
/-- The sprite's row origin, `V[y] mod 32` (44_display.md R183). -/
def State.originY (s : State) (y : RegIx) : Nat := (s.getV y).toNat % 32
/-- The n sprite rows, row r at `I + r` mod 4096 (44_display.md R182). -/
def State.spriteRows (s : State) (n : Count) : List Byte :=
  (List.range n.toNat).map (fun r => s.memRead (s.index.toNat + r))

end Sys2Proof.Machine
end

