-- ==== Sys2Proof/Machine/Control.lean ====
section
/-! DEFINITION. Machine/Control.lean: the control transfer instructions (41_control_transfer.md R120 to R131). Each meaning is
the execute phase; `PC` has already moved past the instruction (40_step_cycle.md R103). -/

namespace Sys2Proof.Machine

/-- `SYS` (R121): nothing. -/
def execSys (_nnn : Addr) (s : State) : Host.Outcome State Fault Refusal := .next s

/-- `RET` (R122): `PC <- STACK[SP - 1] & 0xFFF; SP <- SP - 1`, or `StackFault(underflow)` on an empty stack. -/
def execRet (s : State) : Host.Outcome State Fault Refusal :=
  if h : s.sp.val ≠ 0 then .next (s.pop.setPc (s.top h)) else raise (.stackFault .underflow)

/-- `JP` (R123): `PC <- nnn`. -/
def execJp (nnn : Addr) (s : State) : Host.Outcome State Fault Refusal := .next (s.setPc (zextAddr nnn))

/-- `CALL` (R124): push the advanced `PC`, `PC <- nnn`, or `StackFault(overflow)` on a full stack. -/
def execCall (nnn : Addr) (s : State) : Host.Outcome State Fault Refusal :=
  if h : s.sp.val < 16 then .next ((s.push s.pc h).setPc (zextAddr nnn)) else raise (.stackFault .overflow)

/-- `SE_IMM` (R125): skip if `V[x] = kk`. -/
def execSeImm (x : RegIx) (kk : Byte) (s : State) : Host.Outcome State Fault Refusal :=
  .next (s.skipIf (s.getV x == kk))

/-- `SNE_IMM` (R126): skip if `V[x] != kk`. -/
def execSneImm (x : RegIx) (kk : Byte) (s : State) : Host.Outcome State Fault Refusal :=
  .next (s.skipIf (s.getV x != kk))

/-- `SE_REG` (R127): skip if `V[x] = V[y]`. -/
def execSeReg (x y : RegIx) (s : State) : Host.Outcome State Fault Refusal :=
  .next (s.skipIf (s.getV x == s.getV y))

/-- `SNE_REG` (R128): skip if `V[x] != V[y]`. -/
def execSneReg (x y : RegIx) (s : State) : Host.Outcome State Fault Refusal :=
  .next (s.skipIf (s.getV x != s.getV y))

/-- `JP_V0` (R129): `PC <- (nnn + V[0]) & 0xFFF`. -/
def execJpV0 (nnn : Addr) (s : State) : Host.Outcome State Fault Refusal := .next (s.setPc (s.offsetTarget nnn))

end Sys2Proof.Machine
end

