-- ==== Sys2Proof/Machine/Flags.lean ====
section
/-! DEFINITION. Machine/Flags.lean: every value the flag register `VF` is given as a flag (10_state.md R21). -/

namespace Sys2Proof.Machine

/-- A flag as the byte `VF` receives: 1 or 0. -/
def flagByte (c : Bool) : Byte := if c then 1 else 0

/-- The carry of `ADD_REG`: the unsigned sum passes 255 (42_load_alu.md R146). -/
def carryOut (a b : Byte) : Bool := decide (255 < a.toNat + b.toNat)

/-- The no-borrow of `SUB` and `SUBN`: the minuend `a` is at least the subtrahend `b` (42_load_alu.md R147, R149). -/
def noBorrow (a b : Byte) : Bool := decide (b.toNat ≤ a.toNat)

/-- The bit `SHR` shifts out, `a[0]` (42_load_alu.md R148). -/
def lowBit (a : Byte) : Bool := a.getLsbD 0

/-- The bit `SHL` shifts out, `a[7]` (42_load_alu.md R150). -/
def highBit (a : Byte) : Bool := a.getLsbD 7

/-- `V[15] <-` the flag. -/
def State.setFlag (s : State) (c : Bool) : State := s.setV vf (flagByte c)

end Sys2Proof.Machine
end

