-- ==== Sys2Proof/Machine/Sprite.lean ====
section
/-! DEFINITION. Machine/Sprite.lean: the sprite drawing and collision engine (44_display.md R181 to R184). -/

namespace Sys2Proof.Machine

/-- All cells off. -/
def Display.blank : Display := Vector.replicate 32 (Vector.replicate 64 false)

/-- `DISP[px][py]`; false off the display. -/
def Display.cell (d : Display) (px py : Nat) : Bool :=
  if h : px < 64 ∧ py < 32 then (d[py]'h.2)[px]'h.1 else false

/-- `DISP[px][py] <- DISP[px][py] ^ 1`; nothing off the display. -/
def Display.toggle (d : Display) (px py : Nat) : Display :=
  if h : px < 64 ∧ py < 32 then d.set py ((d[py]'h.2).set px (!(d[py]'h.2)[px]'h.1) h.1) h.2 else d

/-- The display so far and whether a set cell was cleared so far. -/
abbrev Drawing := Display × Bool

/-- One sprite bit at column px, row py: a 1 bit on the display toggles its cell and collides with a set one; a 0 bit and a bit
off the display do nothing (44_display.md R183, R184). -/
def drawBit (px py : Nat) (bit : Bool) (g : Drawing) : Drawing :=
  if px ≤ 63 ∧ py ≤ 31 ∧ bit = true then (Display.toggle g.1 px py, g.2 || Display.cell g.1 px py) else g

/-- One sprite row of 8 pixels from column ox, the most significant bit first (44_display.md R182). -/
def drawRow (ox py : Nat) (row : Byte) (g : Drawing) : Drawing :=
  (List.range 8).foldl (fun g c => drawBit (ox + c) py (row.getLsbD (7 - c)) g) g

/-- The rows of a sprite from row py down (44_display.md R181). -/
def drawRows (ox : Nat) : Nat → List Byte → Drawing → Drawing
  | _, [], g => g
  | py, row :: rows, g => drawRows ox (py + 1) rows (drawRow ox py row g)

/-- The whole sprite: the new display and the collision (44_display.md R181). -/
def drawSprite (d : Display) (ox oy : Nat) (rows : List Byte) : Drawing := drawRows ox oy rows (d, false)

end Sys2Proof.Machine
end

