-- ==== Sys2Proof/Machine/Display.lean ====
section
/-! DEFINITION. Machine/Display.lean: the display instructions (44_display.md R180 to R186). -/

namespace Sys2Proof.Machine

/-- `CLS` (R180): all cells off; emits a frame; `VF` is not written. -/
def execCls (s : State) : Host.Outcome State Fault Refusal := .next (s.setDisp Display.blank).emitFrame

/-- `DRW` (R181): the origin and the rows are read first, then the sprite is drawn, `VF` receives the collision, and a frame is
emitted (log 16). -/
def execDrw (x y : RegIx) (n : Count) (s : State) : Host.Outcome State Fault Refusal :=
  let g := drawSprite s.disp (s.originX x) (s.originY y) (s.spriteRows n)
  .next ((s.setFlag g.2).setDisp g.1).emitFrame

end Sys2Proof.Machine
end

