-- ==== Sys2Proof/Machine/IndexMemory.lean ====
section
/-! DEFINITION. Machine/IndexMemory.lean: index register and memory instructions (43_index_memory.md R160 to R166). `I` is
unchanged by the memory instructions (R164; log 18), and addresses wrap mod 4096 (log 12). -/

namespace Sys2Proof.Machine

/-- `LD_I` (R160): `I <- nnn`. -/
def execLdI (nnn : Addr) (s : State) : Host.Outcome State Fault Refusal := .next (s.setIndex (zextAddr nnn))

/-- `ADD_I` (R161): `I <- (I + V[x]) & 0xFFF`, no flag (log 18). -/
def execAddI (x : RegIx) (s : State) : Host.Outcome State Fault Refusal :=
  .next (s.setIndex (s.index + zextByte (s.getV x)))

/-- `LD_F` (R162): `I <- (0x050 + 5 * V[x]) & 0xFFF` (log 17). -/
def execLdF (x : RegIx) (s : State) : Host.Outcome State Fault Refusal := .next (s.setIndex (s.glyphAddr x))

/-- `LD_B` (R163): hundreds, tens and units of `V[x]` at `I`, `I + 1`, `I + 2`. -/
def execLdB (x : RegIx) (s : State) : Host.Outcome State Fault Refusal :=
  let b := s.getV x
  let a := s.index.toNat
  .next (((s.memWrite a (hundreds b)).memWrite (a + 1) (tens b)).memWrite (a + 2) (units b))

/-- `ST_REGS` (R165): `V[0]` to `V[x]` at `I` upward. -/
def execStRegs (x : RegIx) (s : State) : Host.Outcome State Fault Refusal := .next (s.storeRegs (x.toNat + 1))

/-- `LD_REGS` (R166): `V[0]` to `V[x]` from `I` upward. -/
def execLdRegs (x : RegIx) (s : State) : Host.Outcome State Fault Refusal := .next (s.loadRegs (x.toNat + 1))

end Sys2Proof.Machine
end

