-- ==== Sys2Proof/Machine/KeypadTimers.lean ====
section
/-! DEFINITION. Machine/KeypadTimers.lean: keypad and timer instructions (45_keypad_timers.md R200 to R206). -/

namespace Sys2Proof.Machine

/-- `SKP` (R200): skip if key `V[x] & 0xF` is pressed. -/
def execSkp (x : RegIx) (s : State) : Host.Outcome State Fault Refusal := .next (s.skipIf (s.keyPressed x))

/-- `SKNP` (R202): skip if key `V[x] & 0xF` is not pressed. -/
def execSknp (x : RegIx) (s : State) : Host.Outcome State Fault Refusal := .next (s.skipIf (!s.keyPressed x))

/-- `LD_VX_DT` (R204): `V[x] <- DT`. -/
def execLdVxDt (x : RegIx) (s : State) : Host.Outcome State Fault Refusal := .next (s.setV x s.dt)

/-- `LD_VX_K` (R203): with no key pressed `PC` goes back to the instruction itself; else `V[x]` receives the least pressed
key. -/
def execLdVxK (x : RegIx) (s : State) : Host.Outcome State Fault Refusal :=
  .next (match leastPressed s.keys with
    | none => s.rewindPc
    | some k => s.setV x k)

/-- `LD_DT_VX` (R205): `DT <- V[x]`. -/
def execLdDtVx (x : RegIx) (s : State) : Host.Outcome State Fault Refusal := .next (s.setDt (s.getV x))

/-- `LD_ST_VX` (R206): `ST <- V[x]`. -/
def execLdStVx (x : RegIx) (s : State) : Host.Outcome State Fault Refusal := .next (s.setSt (s.getV x))

end Sys2Proof.Machine
end

