-- ==== Sys2Proof/Machine/LoadAlu.lean ====
section
/-! DEFINITION. Machine/LoadAlu.lean: register loads, arithmetic, logic, shifts, random (42_load_alu.md R140 to R154). In the
flag-writing instructions the statements run in the order of their rule (R154; log 15). -/

namespace Sys2Proof.Machine

/-- `LD_IMM` (R140): `V[x] <- kk`. -/
def execLdImm (x : RegIx) (kk : Byte) (s : State) : Host.Outcome State Fault Refusal := .next (s.setV x kk)

/-- `ADD_IMM` (R141): `V[x] <- (V[x] + kk) mod 256`, no flag. -/
def execAddImm (x : RegIx) (kk : Byte) (s : State) : Host.Outcome State Fault Refusal := .next (s.setV x (s.getV x + kk))

/-- `LD_REG` (R142): `V[x] <- V[y]`. -/
def execLdReg (x y : RegIx) (s : State) : Host.Outcome State Fault Refusal := .next (s.setV x (s.getV y))

/-- `OR` (R143): `V[x] <- V[x] | V[y]`, no flag (log 18). -/
def execOrReg (x y : RegIx) (s : State) : Host.Outcome State Fault Refusal := .next (s.setV x (s.getV x ||| s.getV y))

/-- `AND` (R144): `V[x] <- V[x] & V[y]`, no flag (log 18). -/
def execAndReg (x y : RegIx) (s : State) : Host.Outcome State Fault Refusal := .next (s.setV x (s.getV x &&& s.getV y))

/-- `XOR` (R145): `V[x] <- V[x] ^ V[y]`, no flag (log 18). -/
def execXorReg (x y : RegIx) (s : State) : Host.Outcome State Fault Refusal := .next (s.setV x (s.getV x ^^^ s.getV y))

/-- `ADD_REG` (R146): the sum mod 256, then the carry in `VF`. -/
def execAddReg (x y : RegIx) (s : State) : Host.Outcome State Fault Refusal :=
  let a := s.getV x
  let b := s.getV y
  .next ((s.setV x (a + b)).setFlag (carryOut a b))

/-- `SUB` (R147): `V[x] - V[y]` mod 256, then the no-borrow in `VF`. -/
def execSub (x y : RegIx) (s : State) : Host.Outcome State Fault Refusal :=
  let a := s.getV x
  let b := s.getV y
  .next ((s.setV x (a - b)).setFlag (noBorrow a b))

/-- `SHR` (R148): the low bit in `VF`, then `V[x]`, read again, shifted right; y is ignored. -/
def execShr (x : RegIx) (s : State) : Host.Outcome State Fault Refusal :=
  let t := s.setFlag (lowBit (s.getV x))
  .next (t.setV x (t.getV x >>> 1))

/-- `SUBN` (R149): `V[y] - V[x]` mod 256, then the no-borrow in `VF`. -/
def execSubn (x y : RegIx) (s : State) : Host.Outcome State Fault Refusal :=
  let a := s.getV x
  let b := s.getV y
  .next ((s.setV x (b - a)).setFlag (noBorrow b a))

/-- `SHL` (R150): the high bit in `VF`, then `V[x]`, read again, shifted left mod 256; y is ignored. -/
def execShl (x : RegIx) (s : State) : Host.Outcome State Fault Refusal :=
  let t := s.setFlag (highBit (s.getV x))
  .next (t.setV x (t.getV x <<< 1))

/-- `RND` (R151): `V[x] <- rand & kk`, `rand` the random input of this step (log 7). -/
def execRnd (x : RegIx) (kk : Byte) (s : State) : Host.Outcome State Fault Refusal := .next (s.setV x (s.rand &&& kk))

end Sys2Proof.Machine
end

