-- ==== Sys2Proof/Machine/Step.lean ====
section
/-! DEFINITION. Machine/Step.lean: the step, the one transition of the core (40_step_cycle.md R100, R101), and the placing of a
word where the next step fetches it. -/

namespace Sys2Proof.Machine

/-- One step: fetch, `PC` advance, decode, execute, timer phase, outputs (R101). A fault gives no next state, so a faulting
step changes nothing (R109). -/
def step (s : State) : Host.Outcome State Fault Refusal :=
  match decode s.fetchWord with
  | .error _ => raise (.decodeError s.fetchWord s.pc)
  | .ok i =>
    match exec i s.beginStep with
    | .next t => .next t.endStep
    | .fault f => raise f
    | .refused r => .refused r

/-- `s` with the word whose low `nbits` bits are `w` at `PC`, big-endian: it stands for the load of a program (log 24). -/
def State.withFetchWord (s : State) (nbits w : Nat) : State :=
  (s.memWrite s.pc.toNat (hiByte (tableWord nbits w))).memWrite (s.pc.toNat + 1) (loByte (tableWord nbits w))

end Sys2Proof.Machine
end

