-- ==== Sys2Proof/Machine/Construct.lean ====
section
/-! DEFINITION. Machine/Construct.lean: construction, the one initialisation event (70_reset_and_hazards.md R260 to R263). -/

namespace Sys2Proof.Machine

/-- Every state element at its value of 10_state.md R40 for this clock, before font and image are copied in. -/
def State.fresh (clockHz : Nat) (phase : TimerPhase) : State :=
  { State.reset with acc := clockHz, clockHz := clockHz, timerPhase := phase }

/-- Construction, in the order of R260: the length check, the values of 10_state.md R40 with `FONT` at 0x050, the image at
0x200. `CLOCK_HZ` = 0 is refused (log 25). -/
def construct (clockHz : Nat) (phase : TimerPhase) (font : Vector Byte 80) (image : List Byte) :
    Host.Outcome State Fault Refusal :=
  if maxImage < image.length then raise (.loadError image.length)
  else if clockHz = 0 then .refused .clockZero
  else .next (((State.fresh clockHz phase).loadBytes fontBase font.toList).loadBytes progBase image)

end Sys2Proof.Machine
end

