-- ==== Sys2Proof/Machine/Outputs.lean ====
section
/-! DEFINITION. Machine/Outputs.lean: the host-facing outputs that are functions of the state or of a fault
(60_exceptions.md R225, R237, R238, R241). -/

namespace Sys2Proof.Machine

/-- `buzzer = 1` if and only if `ST != 0` (60_exceptions.md R237; PRESUMED, log 21). -/
def State.buzzer (s : State) : Bool := s.st != 0

/-- `clock_period`: the step duration in seconds, 1/`CLOCK_HZ` (60_exceptions.md R238). -/
def State.clockPeriod (s : State) : Rat := 1 / (s.clockHz : Rat)

/-- The frame port's 2048 bits: cell (px, py) at bit index 64 * py + px (60_exceptions.md R241; log 22). -/
def Display.port (d : Display) : Vector Bool 2048 :=
  Vector.ofFn (fun k => Display.cell d (k.val % 64) (k.val / 64))

/-- The fault code of a port; 0 is no fault (60_exceptions.md R225; log 22). -/
def faultCode : Option Fault → Nat
  | none => 0
  | some (.decodeError _ _) => 1
  | some (.stackFault .overflow) => 2
  | some (.stackFault .underflow) => 3
  | some (.loadError _) => 4

end Sys2Proof.Machine
end

