-- ==== Sys2Proof/Safety.lean ====
section
/-! DEFINITION. Safety.lean: what claims about runs are stated with: the invariants of 10_state.md R34, the finished program of
60_exceptions.md R247, and what a sprite puts on a cell. -/

namespace Sys2Proof.Machine

/-- The invariants of every step boundary (10_state.md R34), and the canonical form of memory (log 28). `SP <= 16` and the
widths are in the types. -/
structure Invariants (s : State) : Prop where
  /-- `PC < 4096`. -/
  pc_lt : s.pc.toNat < 4096
  /-- `I < 4096`. -/
  index_lt : s.index.toNat < 4096
  /-- Every live stack entry is below 4096. -/
  stack_lt : ∀ k : Fin 16, k.val < s.sp.val → s.stack[k].toNat < 4096
  /-- `1 <= ACC`. -/
  acc_pos : 1 ≤ s.acc
  /-- `ACC <= CLOCK_HZ`. -/
  acc_le : s.acc ≤ s.clockHz
  /-- Memory has its canonical form. -/
  mem_wf : Memory.wf s.mem

/-- A program is finished when `PC = a` and the word at a is `JP a` (60_exceptions.md R247; log 27). -/
def Finished (s : State) : Prop := s.fetchWord = 0x1000 + s.pc

/-- How far an address lies above `I`, going round the 4096 bytes (43_index_memory.md R164): address a is byte `aboveIndex a` of a
block that starts at `I`. -/
def State.aboveIndex (s : State) (a : Nat) : Nat := (a + 4096 - s.index.toNat % 4096) % 4096

/-- The bit a sprite with its origin at (ox, oy) has for the cell (qx, qy): row qy - oy, counted from the most significant bit
(44_display.md R182); 0 where the sprite does not reach. -/
def spriteBit (ox oy : Nat) (rows : List Byte) (qx qy : Nat) : Bool :=
  decide (ox ≤ qx ∧ qx < ox + 8 ∧ oy ≤ qy ∧ qy < oy + rows.length) && (rows.getD (qy - oy) 0).getLsbD (7 - (qx - ox))

/-- The bit that `DRW x y n` has for the cell (qx, qy) in this state: the sprite's origin is (`V[x]` mod 64, `V[y]` mod 32), its row r
is the byte at `I + r`, its leftmost pixel is bit 7 (44_display.md R181 to R183). -/
def State.drwBit (s : State) (x y : RegIx) (n : Count) (qx qy : Nat) : Bool :=
  let ox := (s.getV x).toNat % 64
  let oy := (s.getV y).toNat % 32
  decide (ox ≤ qx ∧ qx < ox + 8 ∧ oy ≤ qy ∧ qy < oy + n.toNat) &&
    (s.memRead (s.index.toNat + (qy - oy))).getLsbD (7 - (qx - ox))

/-- The state with other inputs laid out and numbered. -/
def State.withInputs (s : State) (l : List StepInput) (n : Nat) : State := { s with inputs := l, inputIndex := n }

/-- An outcome with a function applied to its next state. -/
def mapNext (f : State → State) : Host.Outcome State Fault Refusal → Host.Outcome State Fault Refusal
  | .next t => .next (f t)
  | .fault e => .fault e
  | .refused r => .refused r

/-- The instruction reads the key snapshot (45_keypad_timers.md R200, R202, R203). -/
def readsKeys : Instr → Bool
  | .skp _ | .sknp _ | .ldVxK _ => true
  | .cls | .ret | .sys _ | .jp _ | .call _ | .seImm _ _ | .sneImm _ _ | .seReg _ _ | .sneReg _ _ | .ldImm _ _
  | .addImm _ _ | .ldReg _ _ | .orReg _ _ | .andReg _ _ | .xorReg _ _ | .addReg _ _ | .sub _ _ | .shr _
  | .subn _ _ | .shl _ | .ldI _ | .jpV0 _ | .rnd _ _ | .drw _ _ _ | .ldVxDt _ | .ldDtVx _ | .ldStVx _ | .addI _
  | .ldF _ | .ldB _ | .stRegs _ | .ldRegs _ => false

/-- The instruction reads the random byte (42_load_alu.md R151). -/
def readsRand : Instr → Bool
  | .rnd _ _ => true
  | .cls | .ret | .sys _ | .jp _ | .call _ | .seImm _ _ | .sneImm _ _ | .seReg _ _ | .sneReg _ _ | .ldImm _ _
  | .addImm _ _ | .ldReg _ _ | .orReg _ _ | .andReg _ _ | .xorReg _ _ | .addReg _ _ | .sub _ _ | .shr _
  | .subn _ _ | .shl _ | .ldI _ | .jpV0 _ | .drw _ _ _ | .skp _ | .sknp _ | .ldVxDt _ | .ldVxK _ | .ldDtVx _
  | .ldStVx _ | .addI _ | .ldF _ | .ldB _ | .stRegs _ | .ldRegs _ => false

/-- The instruction writes register z: as its destination, as the flag `VF`, or as one of the registers `LD_REGS` loads
(42_load_alu.md R140 to R151; 43_index_memory.md R166; 44_display.md R181; 45_keypad_timers.md R203, R204). -/
def writesReg : Instr → RegIx → Bool
  | .ldImm x _, z | .addImm x _, z | .ldReg x _, z | .orReg x _, z | .andReg x _, z | .xorReg x _, z | .rnd x _, z
  | .ldVxDt x, z | .ldVxK x, z => z == x
  | .addReg x _, z | .sub x _, z | .shr x, z | .subn x _, z | .shl x, z => z == x || z == 15
  | .drw _ _ _, z => z == 15
  | .ldRegs x, z => decide (z ≤ x)
  | .cls, _ | .ret, _ | .sys _, _ | .jp _, _ | .call _, _ | .seImm _ _, _ | .sneImm _ _, _ | .seReg _ _, _ | .sneReg _ _, _
  | .ldI _, _ | .jpV0 _, _ | .skp _, _ | .sknp _, _ | .ldDtVx _, _ | .ldStVx _, _ | .addI _, _ | .ldF _, _ | .ldB _, _
  | .stRegs _, _ => false

/-- One `CALL` per address, one after the other, each with its own execute phase and nothing between (41_control_transfer.md R131). -/
def callAll : List Addr → State → Host.Outcome State Fault Refusal
  | [], s => .next s
  | a :: rest, s =>
    match exec (.call a) s with
    | .next t => callAll rest t
    | .fault e => .fault e
    | .refused r => .refused r

end Sys2Proof.Machine
end

