-- ==== Sys2Proof/Certificates/Slice0/Obligations.lean ====
section
/-! DEFINITION. Certificates/Slice0/Obligations.lean: the statements for the provers. Every docstring names the rules of spec/ it
formalises, and the log entries for what the spec marks as its own decision. `exec i s` is the execute phase: `s` is the state
whose `PC` has already moved past the instruction (40_step_cycle.md R103). -/

open Sys2Proof Sys2Proof.Machine

/-! ### Encoding -/

/-- Decoding an encoded well-formed instruction gives it back, every operand at every value (30_encoding.md R71 to R75). -/
def Obligations.DecodeOfEncodeIsTheInstruction : Prop :=
  ∀ i : Instr, i.wellFormed = true → decode (encode i) = .ok i

/-- Every decoded instruction is well formed, and encoding it gives the word back, but for the ignored y of `SHR` and `SHL`,
which the encoder writes as 0 (30_encoding.md R77, R79, R81; log 32). -/
def Obligations.DecodedWordsEncodeBack : Prop :=
  ∀ (op : Word) (i : Instr), decode op = .ok i →
    i.wellFormed = true ∧
      encode i = if fieldN3 op = 0x8 ∧ (fieldN op = 0x6 ∨ fieldN op = 0xE) then op &&& 0xFF0F else op

/-- The words the decoder rejects, with any error at all, are exactly the illegal words of 30_encoding.md R76, and each is rejected
under its own name. -/
def Obligations.IllegalWordsAreExactlyTheListed : Prop :=
  ∀ op : Word,
    ((∃ e, decode op = .error e) ↔
      (fieldN3 op = 0x5 ∧ fieldN op ≠ 0) ∨ (fieldN3 op = 0x9 ∧ fieldN op ≠ 0) ∨
      (fieldN3 op = 0x8 ∧ fieldN op ∈ [0x8, 0x9, 0xA, 0xB, 0xC, 0xD, 0xF]) ∨
      (fieldN3 op = 0xE ∧ fieldKK op ∉ [0x9E, 0xA1]) ∨
      (fieldN3 op = 0xF ∧ fieldKK op ∉ [0x07, 0x0A, 0x15, 0x18, 0x1E, 0x29, 0x33, 0x55, 0x65])) ∧
    ∀ e, decode op = .error e → e = .illegal op

/-- A few words of 30_encoding.md R75 decode to their instructions (sanity). -/
def Obligations.SampleWordsDecodeAsTabled : Prop :=
  decode 0x00E0 = .ok .cls ∧ decode 0x00EE = .ok .ret ∧ decode 0x0000 = .ok (.sys 0x000) ∧
  decode 0x2300 = .ok (.call 0x300) ∧ decode 0x332A = .ok (.seImm 3 0x2A) ∧ decode 0x8127 = .ok (.subn 1 2) ∧
  decode 0x8206 = .ok (.shr 2) ∧ decode 0x82F6 = .ok (.shr 2) ∧ decode 0xA2F0 = .ok (.ldI 0x2F0) ∧
  decode 0xD125 = .ok (.drw 1 2 5) ∧ decode 0xE0A1 = .ok (.sknp 0) ∧ decode 0xF333 = .ok (.ldB 3)

/-! ### The step -/

/-- A step runs the decoded instruction: what `exec` answers from the state `beginStep` leaves is what the step answers, after
`endStep` where it is a next state (40_step_cycle.md R101, R104, R105, R109). -/
def Obligations.StepRunsTheDecodedInstruction : Prop :=
  ∀ (s : State) (i : Instr), decode s.fetchWord = .ok i →
    step s = mapNext State.endStep (exec i s.beginStep)

/-- What surrounds the execute phase: the fetched word is big-endian at `PC`; `PC` moves by 2 mod 4096 and the old frame output
goes; the timer phase runs once, after the instruction or before it as `TIMER_PHASE` says; the step's inputs are used up
(40_step_cycle.md R101 to R103, R106, R107; 60_exceptions.md R235; the place of the timer phase is the spec's decision D7, log 6;
inputs and frame are the model's own fields, logs 7 and 8). -/
def Obligations.WhatSurroundsTheExecutePhase : Prop :=
  ∀ s : State,
    s.fetchWord = s.memRead s.pc.toNat ++ s.memRead (s.pc.toNat + 1) ∧
    (s.timerPhase = .afterExecute →
      s.beginStep = { s with pc := BitVec.ofNat 16 ((s.pc.toNat + 2) % 4096), frame := none } ∧
      s.endStep = s.runTimers.withInputs s.inputs.tail (s.inputIndex + 1)) ∧
    (s.timerPhase = .beforeFetch →
      s.beginStep = { s.runTimers with pc := BitVec.ofNat 16 ((s.pc.toNat + 2) % 4096), frame := none } ∧
      s.endStep = s.withInputs s.inputs.tail (s.inputIndex + 1))

/-- No step is refused: every state steps to a next state or a named fault (30_encoding.md R74; 60_exceptions.md R226, R247). -/
def Obligations.NoStepIsRefused : Prop :=
  ∀ (s : State) (r : Refusal), step s ≠ .refused r

/-- The faults of a step, exactly: an illegal word, a `CALL` with a full stack, a `RET` with an empty one
(60_exceptions.md R220 to R223, R226, R227). -/
def Obligations.StepFaultsExactlyAsListed : Prop :=
  ∀ (s : State) (f : Fault),
    step s = .fault f ↔
      (decode s.fetchWord = .error (.illegal s.fetchWord) ∧ f = .decodeError s.fetchWord s.pc) ∨
      ((∃ nnn, decode s.fetchWord = .ok (.call nnn)) ∧ s.sp.val = 16 ∧ f = .stackFault .overflow) ∨
      (decode s.fetchWord = .ok .ret ∧ s.sp.val = 0 ∧ f = .stackFault .underflow)

/-- A fault does not depend on the step's inputs: stepped again with any keys and any random bytes, the machine faults the same
way (60_exceptions.md R229). -/
def Obligations.FaultRepeatsWhateverTheInputs : Prop :=
  ∀ (s : State) (f : Fault) (l : List StepInput) (n : Nat),
    step s = .fault f → step (s.withInputs l n) = .fault f

/-- A word placed at `PC` by the model's own `withFetchWord` (log 24) is the word the next step fetches, high byte first
(20_memory.md R54, R63); at `PC` = 0xFFF its second byte lies at 0x000 (the wrap is decision D22, log 12). -/
def Obligations.PlacedWordIsFetched : Prop :=
  ∀ (s : State) (w : Nat), Memory.wf s.mem → w < 65536 → (s.withFetchWord 16 w).fetchWord = BitVec.ofNat 16 w

/-! ### Invariants -/

/-- The invariants of 10_state.md R34 hold at reset (the reset values are the spec's decisions D2 to D4, logs 1 to 4). -/
def Obligations.InvariantsAtReset : Prop := Invariants State.reset

/-- The invariants of 10_state.md R34 hold in every constructed machine (70_reset_and_hazards.md R260). -/
def Obligations.InvariantsAtConstruction : Prop :=
  ∀ (hz : Nat) (phase : TimerPhase) (font : Vector Byte 80) (image : List Byte) (s : State),
    construct hz phase font image = .next s → Invariants s

/-- Every step keeps the invariants of 10_state.md R34. -/
def Obligations.StepKeepsTheInvariants : Prop :=
  ∀ s t : State, Invariants s → step s = .next t → Invariants t

/-! ### Construction and reset -/

/-- Construction with an image that fits gives a machine with the font at 0x050, the image at 0x200, zeros elsewhere, `PC` at
0x200, every register, `I`, every stack entry and both timers 0, an empty stack, a blank display, a full `ACC` and the given
clock (10_state.md R40; 70_reset_and_hazards.md R260 to R262; 20_memory.md R52; the values outside memory are decisions D2 to D4,
the time of the load is D24, logs 1 to 4 and 24; the last three fields are the model's own, logs 7 and 8). -/
def Obligations.ConstructionLoadsFontAndImage : Prop :=
  ∀ (hz : Nat) (phase : TimerPhase) (font : Vector Byte 80) (image : List Byte),
    0 < hz → image.length ≤ 3584 →
    ∃ s, construct hz phase font image = .next s ∧
      (∀ k : Fin 80, s.memRead (0x050 + k.val) = font[k]) ∧
      (∀ k, (h : k < image.length) → s.memRead (0x200 + k) = image[k]) ∧
      (∀ a, a < 4096 → ¬(0x050 ≤ a ∧ a < 0x0A0) → ¬(0x200 ≤ a ∧ a < 0x200 + image.length) → s.memRead a = 0) ∧
      (∀ z, s.getV z = 0) ∧ s.pc = 0x200 ∧ s.index = 0 ∧ (∀ k : Fin 16, s.stack[k] = 0) ∧ s.sp = 0 ∧
      (∀ px py, px < 64 → py < 32 → Display.cell s.disp px py = false) ∧ s.dt = 0 ∧ s.st = 0 ∧
      s.clockHz = hz ∧ s.acc = hz ∧ s.timerPhase = phase ∧
      s.frame = none ∧ s.inputs = [] ∧ s.inputIndex = 0

/-- An image of more than 3584 bytes gives a `LoadError` with its length, and nothing else does; the machine is refused only for
`CLOCK_HZ` = 0 (60_exceptions.md R224; 70_reset_and_hazards.md R260, R263; decision D20, log 25). -/
def Obligations.LoadErrorExactlyForLongImages : Prop :=
  ∀ (hz : Nat) (phase : TimerPhase) (font : Vector Byte 80) (image : List Byte),
    (∀ f, construct hz phase font image = .fault f ↔ 3584 < image.length ∧ f = .loadError image.length) ∧
    ((∃ r, construct hz phase font image = .refused r) ↔ image.length ≤ 3584 ∧ hz = 0)

/-- The reset state is the machine constructed with the free clock, the default font and an empty image (10_state.md R40; the
model's choice of arguments, logs 4, 5 and 24). -/
def Obligations.ResetIsTheEmptyConstruction : Prop :=
  construct Config.clockHz .afterExecute defaultFont [] = .next State.reset

/-! ### Memory -/

/-- The access primitives: every address is reduced mod 4096, the fetch reads two bytes, the high one first, and a byte
written is read back while every other address reads as before; a write changes memory alone and keeps its form (20_memory.md
R63; the wrap inside an access is decision D22, log 12; the form of memory is the model's, log 28). -/
def Obligations.MemoryPrimitivesReduceAddresses : Prop :=
  ∀ s : State,
    (∀ a, s.memRead a = s.memRead (a % 4096)) ∧
    s.fetchWord = s.memRead (s.pc.toNat % 4096) ++ s.memRead ((s.pc.toNat + 1) % 4096) ∧
    (Memory.wf s.mem → ∀ a b,
      Memory.wf (s.memWrite a b).mem ∧ s.memWrite a b = { s with mem := (s.memWrite a b).mem } ∧
      ∀ c, (s.memWrite a b).memRead c = if c % 4096 = a % 4096 then b else s.memRead c)

/-- A store is seen by the very next fetch: after `ST_REGS`, and after `LD_B`, each byte of the next word that lies in the stored
block is the byte stored there, and each that does not is the byte that was there before (20_memory.md R60, derived from R57;
43_index_memory.md R163, R165; the wrap of block and fetch is decision D22, log 12; `I` and the registers stay: D16, log 18). -/
def Obligations.StoreIsSeenByTheNextFetch : Prop :=
  ∀ (s : State) (x : RegIx), Memory.wf s.mem →
    (decode s.fetchWord = .ok (.stRegs x) →
      let now (a : Nat) : Byte :=
        if s.aboveIndex a ≤ x.toNat then s.getV (BitVec.ofNat 4 (s.aboveIndex a)) else s.memRead a
      ∃ t, step s = .next t ∧ t.fetchWord = now (s.pc.toNat + 2) ++ now (s.pc.toNat + 3)) ∧
    (decode s.fetchWord = .ok (.ldB x) →
      let now (a : Nat) : Byte :=
        if s.aboveIndex a = 0 then BitVec.ofNat 8 ((s.getV x).toNat / 100)
        else if s.aboveIndex a = 1 then BitVec.ofNat 8 ((s.getV x).toNat / 10 % 10)
        else if s.aboveIndex a = 2 then BitVec.ofNat 8 ((s.getV x).toNat % 10)
        else s.memRead a
      ∃ t, step s = .next t ∧ t.fetchWord = now (s.pc.toNat + 2) ++ now (s.pc.toNat + 3))

/-! ### Who writes what -/

/-- Only the instructions the spec names write each element in the execute phase: a general register, `PC`, memory, `I`, the stack,
the display and the frame, the timers; none writes `ACC`, the configuration or the inputs (10_state.md R20 to R30;
20_memory.md R50; 41_control_transfer.md R131; 44_display.md R185; that an instruction writes no more than its row names is
decision D16, log 18; frame and inputs are the model's own fields, logs 7 and 8). -/
def Obligations.OnlyNamedInstructionsWriteEachElement : Prop :=
  ∀ (i : Instr) (s t : State), exec i s = .next t →
    (∀ z, writesReg i z = false → t.getV z = s.getV z) ∧
    ((∀ x y kk nnn, i ≠ .ret ∧ i ≠ .jp nnn ∧ i ≠ .call nnn ∧ i ≠ .jpV0 nnn ∧ i ≠ .seImm x kk ∧ i ≠ .sneImm x kk ∧
      i ≠ .seReg x y ∧ i ≠ .sneReg x y ∧ i ≠ .skp x ∧ i ≠ .sknp x ∧ i ≠ .ldVxK x) → t.pc = s.pc) ∧
    ((∀ x, i ≠ .ldB x ∧ i ≠ .stRegs x) → t.mem = s.mem) ∧
    ((∀ nnn x, i ≠ .ldI nnn ∧ i ≠ .addI x ∧ i ≠ .ldF x) → t.index = s.index) ∧
    ((∀ nnn, i ≠ .call nnn) → t.stack = s.stack) ∧
    ((∀ nnn, i ≠ .call nnn ∧ i ≠ .ret) → t.sp = s.sp) ∧
    ((∀ x y n, i ≠ .cls ∧ i ≠ .drw x y n) → t.disp = s.disp ∧ t.frame = s.frame) ∧
    ((∀ x, i ≠ .ldDtVx x) → t.dt = s.dt) ∧ ((∀ x, i ≠ .ldStVx x) → t.st = s.st) ∧
    t.acc = s.acc ∧ t.clockHz = s.clockHz ∧ t.timerPhase = s.timerPhase ∧ t.inputs = s.inputs ∧ t.inputIndex = s.inputIndex

/-- `VF` is written as a flag by six instructions only: any other leaves it, unless `V[15]` is its named destination or `LD_REGS`
loads it; `ADD_REG`, `SUB`, `SUBN` and `DRW` always leave it 0 or 1, `SHR` and `SHL` do for x not 15 (10_state.md R21; that `OR`,
`AND`, `XOR` and `ADD_I` leave `VF` is decision D16, log 18; that the flag wins at x = 15 in `ADD_REG`, `SUB` and `SUBN`, and is
shifted in `SHR` and `SHL`, is decision D14, log 15). -/
def Obligations.FlagRegisterHasSixWriters : Prop :=
  ∀ (i : Instr) (s t : State), exec i s = .next t →
    ((∀ x y n, i ≠ .addReg x y ∧ i ≠ .sub x y ∧ i ≠ .subn x y ∧ i ≠ .shr x ∧ i ≠ .shl x ∧ i ≠ .drw x y n) →
      (∀ y kk, i ≠ .ldImm 15 kk ∧ i ≠ .addImm 15 kk ∧ i ≠ .ldReg 15 y ∧ i ≠ .orReg 15 y ∧ i ≠ .andReg 15 y ∧
        i ≠ .xorReg 15 y ∧ i ≠ .rnd 15 kk ∧ i ≠ .ldVxDt 15 ∧ i ≠ .ldVxK 15 ∧ i ≠ .ldRegs 15) →
      t.getV 15 = s.getV 15) ∧
    ((∃ x y n, i = .addReg x y ∨ i = .sub x y ∨ i = .subn x y ∨ i = .drw x y n ∨
        (x ≠ 15 ∧ (i = .shr x ∨ i = .shl x))) →
      t.getV 15 = 0 ∨ t.getV 15 = 1)

/-- A step puts out a frame if and only if it executes `CLS` or `DRW`, and the frame is the display after the step
(40_step_cycle.md R107; 44_display.md R185). -/
def Obligations.FrameExactlyForClearAndDraw : Prop :=
  ∀ (s t : State) (i : Instr), decode s.fetchWord = .ok i → step s = .next t →
    ((i = .cls ∨ ∃ x y n, i = .drw x y n) → t.frame = some t.disp) ∧
    (¬(i = .cls ∨ ∃ x y n, i = .drw x y n) → t.frame = none)

/-- The inputs of a step reach nothing but the instructions that read them: with the same keys where the instruction reads keys,
and the same random byte where it is `RND`, the execute phase does the same, whatever else the inputs are
(40_step_cycle.md R105, R108; 60_exceptions.md R240, R242; the random byte as an input is decision D10, the fields that hold the
inputs are the model's own, log 7). -/
def Obligations.InputsReachOnlyTheirReaders : Prop :=
  ∀ (i : Instr) (s : State) (l : List StepInput) (n : Nat),
    (readsKeys i = true → (s.withInputs l n).keys = s.keys) →
    (readsRand i = true → (s.withInputs l n).rand = s.rand) →
    exec i (s.withInputs l n) = mapNext (fun t => t.withInputs l n) (exec i s)

/-! ### Control transfer (41_control_transfer.md) -/

/-- `SYS` (R121): every word 0nnn other than 0x00E0 and 0x00EE, 0x0000 among them, is a `SYS`; it does nothing, so a step leaves
everything but `PC`, which moves by 2 mod 4096, and what the timer phase, which still runs, and the model's own fields do; for
either place of the timer phase (the places are decision D7, log 6, that it runs in every step D27, log 20; frame and inputs are
the model's own fields, logs 7 and 8; the unused field is log 33). -/
def Obligations.SysDoesNothing : Prop :=
  (∀ op : Word, fieldN3 op = 0x0 → op ≠ 0x00E0 → op ≠ 0x00EE → decode op = .ok (.sys (fieldNNN op))) ∧
  decode 0x0000 = .ok (.sys 0) ∧
  (∀ (nnn : Addr) (s : State), exec (.sys nnn) s = .next s) ∧
  ∀ (s : State) (nnn : Addr), decode s.fetchWord = .ok (.sys nnn) →
    step s = .next { s.runTimers.withInputs s.inputs.tail (s.inputIndex + 1) with
      pc := BitVec.ofNat 16 ((s.pc.toNat + 2) % 4096), frame := none }

/-- `JP` and `JP_V0` (R123, R129): the words 1nnn and Bnnn; `PC` is `nnn`, or `nnn + V[0]` mod 4096; nothing else changes. -/
def Obligations.JumpsGoToTheirTargets : Prop :=
  (∀ op : Word,
    (fieldN3 op = 0x1 → decode op = .ok (.jp (fieldNNN op))) ∧ (fieldN3 op = 0xB → decode op = .ok (.jpV0 (fieldNNN op)))) ∧
  ∀ (nnn : Addr) (s : State),
    exec (.jp nnn) s = .next { s with pc := BitVec.ofNat 16 nnn.toNat } ∧
    exec (.jpV0 nnn) s = .next { s with pc := BitVec.ofNat 16 ((nnn.toNat + (s.getV 0).toNat) % 4096) }

/-- `SE_IMM`, `SNE_IMM`, `SE_REG`, `SNE_REG` (R125 to R128): the words 3xkk, 4xkk, 5xy0, 9xy0, 5xyn and 9xyn with n not 0 being
illegal; `PC` moves by 2 more, mod 4096, exactly when the comparison holds; nothing else changes. -/
def Obligations.CompareSkipsAddTwo : Prop :=
  (∀ op : Word,
    (fieldN3 op = 0x3 → decode op = .ok (.seImm (fieldX op) (fieldKK op))) ∧
    (fieldN3 op = 0x4 → decode op = .ok (.sneImm (fieldX op) (fieldKK op))) ∧
    (fieldN3 op = 0x5 → decode op = if fieldN op = 0 then .ok (.seReg (fieldX op) (fieldY op)) else .error (.illegal op)) ∧
    (fieldN3 op = 0x9 → decode op = if fieldN op = 0 then .ok (.sneReg (fieldX op) (fieldY op)) else .error (.illegal op))) ∧
  ∀ (x y : RegIx) (kk : Byte) (s : State),
    let skipped : Word := BitVec.ofNat 16 ((s.pc.toNat + 2) % 4096)
    exec (.seImm x kk) s = .next { s with pc := if s.getV x = kk then skipped else s.pc } ∧
    exec (.sneImm x kk) s = .next { s with pc := if s.getV x = kk then s.pc else skipped } ∧
    exec (.seReg x y) s = .next { s with pc := if s.getV x = s.getV y then skipped else s.pc } ∧
    exec (.sneReg x y) s = .next { s with pc := if s.getV x = s.getV y then s.pc else skipped }

/-- `CALL` (R124): the words 2nnn; with fewer than 16 live entries, the entry at `SP` becomes `PC`, `SP` grows by 1, `PC`
becomes `nnn`, and nothing else changes; with 16 it faults (`SP` as a count: decision D13, log 10; a fault keeps nothing: D8,
log 9). -/
def Obligations.CallPushesTheReturnAddress : Prop :=
  (∀ op : Word, fieldN3 op = 0x2 → decode op = .ok (.call (fieldNNN op))) ∧
  ∀ (nnn : Addr) (s : State),
    (s.sp.val < 16 → ∃ t, exec (.call nnn) s = .next t ∧
      t = { s with pc := BitVec.ofNat 16 nnn.toNat, stack := t.stack, sp := t.sp } ∧ t.sp.val = s.sp.val + 1 ∧
      ∀ k : Fin 16, t.stack[k] = if k.val = s.sp.val then s.pc else s.stack[k]) ∧
    (s.sp.val = 16 → exec (.call nnn) s = .fault (.stackFault .overflow))

/-- `RET` (R122): the word 0x00EE alone; with a live entry, `PC` becomes the topmost one, masked to 12 bits, `SP` falls by 1,
and nothing else changes, the popped entry included; with none it faults (`SP` as a count: decision D13, log 10; a fault keeps
nothing: D8, log 9). -/
def Obligations.RetPopsTheReturnAddress : Prop :=
  (∀ op : Word, decode op = .ok .ret ↔ op = 0x00EE) ∧
  ∀ s : State,
    (∀ k : Fin 16, s.sp.val = k.val + 1 → ∃ t, exec .ret s = .next t ∧
      t = { s with pc := BitVec.ofNat 16 (s.stack[k].toNat % 4096), sp := t.sp } ∧ t.sp.val = k.val) ∧
    (s.sp.val = 0 → exec .ret s = .fault (.stackFault .underflow))

/-- 16 nested calls from an empty stack succeed, a 17th faults, and a return with no prior call faults (R131). -/
def Obligations.SixteenCallsNestAndNoMore : Prop :=
  ∀ (l : List Addr) (s : State), s.sp.val = 0 →
    (l.length ≤ 16 → ∃ t, callAll l s = .next t ∧ t.sp.val = l.length) ∧
    (l.length = 17 → callAll l s = .fault (.stackFault .overflow)) ∧
    exec .ret s = .fault (.stackFault .underflow)

/-- A `RET` after a `CALL` resumes at the pushed `PC` with the stack as deep as before (R122, R124). -/
def Obligations.ReturnUndoesCall : Prop :=
  ∀ (nnn : Addr) (s t : State), exec (.call nnn) s = .next t →
    ∃ u, exec .ret t = .next u ∧ u.pc = BitVec.ofNat 16 (s.pc.toNat % 4096) ∧ u.sp = s.sp

/-! ### Loads, arithmetic, logic, shifts, random (42_load_alu.md) -/

/-- `LD_IMM`, `ADD_IMM` and `LD_REG` (R140, R141, R142): the words 6xkk, 7xkk, 8xy0; `V[x]` becomes `kk`, `V[x] + kk` mod 256, `V[y]`;
no other register and nothing else changes, `VF` included unless x = 15. -/
def Obligations.LoadsAndImmediateAdd : Prop :=
  (∀ op : Word,
    (fieldN3 op = 0x6 → decode op = .ok (.ldImm (fieldX op) (fieldKK op))) ∧
    (fieldN3 op = 0x7 → decode op = .ok (.addImm (fieldX op) (fieldKK op))) ∧
    (fieldN3 op = 0x8 → fieldN op = 0x0 → decode op = .ok (.ldReg (fieldX op) (fieldY op)))) ∧
  ∀ (x y : RegIx) (kk : Byte) (s : State),
    (∃ t, exec (.ldImm x kk) s = .next t ∧ t = { s with v := t.v } ∧
      ∀ z, t.getV z = if z = x then kk else s.getV z) ∧
    (∃ t, exec (.addImm x kk) s = .next t ∧ t = { s with v := t.v } ∧
      ∀ z, t.getV z = if z = x then BitVec.ofNat 8 (((s.getV x).toNat + kk.toNat) % 256) else s.getV z) ∧
    (∃ t, exec (.ldReg x y) s = .next t ∧ t = { s with v := t.v } ∧
      ∀ z, t.getV z = if z = x then s.getV y else s.getV z)

/-- `OR`, `AND`, `XOR` (R143 to R145): bit k of `V[x]` becomes the or, and, exclusive or of the operands' bits k; no other register,
`VF` included, and nothing else changes (no flag: decision D16, log 18). -/
def Obligations.LogicWorksBitByBit : Prop :=
  ∀ (x y : RegIx) (s : State),
    (∃ t, exec (.orReg x y) s = .next t ∧ t = { s with v := t.v } ∧ (∀ z, z ≠ x → t.getV z = s.getV z) ∧
      ∀ k, (t.getV x).getLsbD k = ((s.getV x).getLsbD k || (s.getV y).getLsbD k)) ∧
    (∃ t, exec (.andReg x y) s = .next t ∧ t = { s with v := t.v } ∧ (∀ z, z ≠ x → t.getV z = s.getV z) ∧
      ∀ k, (t.getV x).getLsbD k = ((s.getV x).getLsbD k && (s.getV y).getLsbD k)) ∧
    (∃ t, exec (.xorReg x y) s = .next t ∧ t = { s with v := t.v } ∧ (∀ z, z ≠ x → t.getV z = s.getV z) ∧
      ∀ k, (t.getV x).getLsbD k = ((s.getV x).getLsbD k ^^ (s.getV y).getLsbD k))

/-- `ADD_REG` (R146): the words 8xy4; `V[x]` becomes the sum mod 256, then `VF` becomes 1 if the sum passes 255, else 0, the
flag winning where x = 15 (decision D14, log 15); no other register and nothing else changes. -/
def Obligations.AddRegSetsCarry : Prop :=
  (∀ op : Word, fieldN3 op = 0x8 → fieldN op = 0x4 → decode op = .ok (.addReg (fieldX op) (fieldY op))) ∧
  ∀ (x y : RegIx) (s : State),
    ∃ t, exec (.addReg x y) s = .next t ∧ t = { s with v := t.v } ∧
      ∀ z, t.getV z =
        if z = 15 then (if (s.getV x).toNat + (s.getV y).toNat > 255 then 1 else 0)
        else if z = x then BitVec.ofNat 8 (((s.getV x).toNat + (s.getV y).toNat) % 256) else s.getV z

/-- `SUB` (R147): the words 8xy5; `V[x]` becomes `V[x] - V[y]` mod 256, then `VF` becomes 1 if `V[x] >= V[y]` before, else 0,
the flag winning where x = 15 (decision D14, log 15); no other register and nothing else changes. -/
def Obligations.SubSetsNoBorrow : Prop :=
  (∀ op : Word, fieldN3 op = 0x8 → fieldN op = 0x5 → decode op = .ok (.sub (fieldX op) (fieldY op))) ∧
  ∀ (x y : RegIx) (s : State),
    ∃ t, exec (.sub x y) s = .next t ∧ t = { s with v := t.v } ∧
      ∀ z, t.getV z =
        if z = 15 then (if (s.getV x).toNat ≥ (s.getV y).toNat then 1 else 0)
        else if z = x then BitVec.ofNat 8 (((s.getV x).toNat + 256 - (s.getV y).toNat) % 256) else s.getV z

/-- `SUBN` (R149): the words 8xy7; `V[x]` becomes `V[y] - V[x]` mod 256, then `VF` becomes 1 if `V[y] >= V[x]` before, else 0,
the flag winning where x = 15 (decision D14, log 15); no other register and nothing else changes. -/
def Obligations.SubnSetsNoBorrow : Prop :=
  (∀ op : Word, fieldN3 op = 0x8 → fieldN op = 0x7 → decode op = .ok (.subn (fieldX op) (fieldY op))) ∧
  ∀ (x y : RegIx) (s : State),
    ∃ t, exec (.subn x y) s = .next t ∧ t = { s with v := t.v } ∧
      ∀ z, t.getV z =
        if z = 15 then (if (s.getV y).toNat ≥ (s.getV x).toNat then 1 else 0)
        else if z = x then BitVec.ofNat 8 (((s.getV y).toNat + 256 - (s.getV x).toNat) % 256) else s.getV z

/-- `SHR` and `SHL` (R148, R150): for x not 15, `V[x]` is halved, or doubled mod 256, and `VF` becomes the bit shifted out; for x = 15
`VF` ends as 0, or as twice its old bit 7, because the flag is written first and shifted (decision D14, log 15); no other
register and nothing else changes. -/
def Obligations.ShiftsSetTheBitShiftedOut : Prop :=
  ∀ (x : RegIx) (s : State),
    (∃ t, exec (.shr x) s = .next t ∧ t = { s with v := t.v } ∧
      ∀ z, t.getV z =
        if z = 15 then (if x = 15 then 0 else BitVec.ofNat 8 ((s.getV x).toNat % 2))
        else if z = x then BitVec.ofNat 8 ((s.getV x).toNat / 2) else s.getV z) ∧
    (∃ t, exec (.shl x) s = .next t ∧ t = { s with v := t.v } ∧
      ∀ z, t.getV z =
        if z = 15 then (if x = 15 then BitVec.ofNat 8 (2 * ((s.getV x).toNat / 128)) else BitVec.ofNat 8 ((s.getV x).toNat / 128))
        else if z = x then BitVec.ofNat 8 (2 * (s.getV x).toNat % 256) else s.getV z)

/-- `RND` (R151): the words Cxkk; `V[x]` becomes the step's random byte and `kk`; no other register and nothing else changes; and the
random byte can be any byte (that it is an unconstrained input of the step is decision D10; the list that holds it is the model's
own, log 7). -/
def Obligations.RndMasksTheRandomByte : Prop :=
  (∀ op : Word, fieldN3 op = 0xC → decode op = .ok (.rnd (fieldX op) (fieldKK op))) ∧
  (∀ (x : RegIx) (kk : Byte) (s : State),
    ∃ t, exec (.rnd x kk) s = .next t ∧ t = { s with v := t.v } ∧ (∀ z, z ≠ x → t.getV z = s.getV z) ∧
      ∀ k, (t.getV x).getLsbD k = (s.rand.getLsbD k && kk.getLsbD k)) ∧
  ∀ (s : State) (b : Byte), ∃ l, (s.withInputs l s.inputIndex).rand = b

/-! ### Index register and memory (43_index_memory.md) -/

/-- `LD_I` (R160): the words Annn; `I` becomes `nnn`; nothing else changes. -/
def Obligations.LdILoadsTheAddress : Prop :=
  (∀ op : Word, fieldN3 op = 0xA → decode op = .ok (.ldI (fieldNNN op))) ∧
  ∀ (nnn : Addr) (s : State), exec (.ldI nnn) s = .next { s with index := BitVec.ofNat 16 nnn.toNat }

/-- `ADD_I` and `LD_F` (R161, R162): `I` becomes `I + V[x]`, or 0x050 + 5 x `V[x]`, mod 4096; nothing else changes, `VF` included
(no flag and no nibble mask: decisions D16, D17, logs 17 and 18). -/
def Obligations.IndexSumsWrapAtTwelveBits : Prop :=
  ∀ (x : RegIx) (s : State),
    exec (.addI x) s = .next { s with index := BitVec.ofNat 16 ((s.index.toNat + (s.getV x).toNat) % 4096) } ∧
    exec (.ldF x) s = .next { s with index := BitVec.ofNat 16 ((0x050 + 5 * (s.getV x).toNat) % 4096) }

/-- `LD_B` (R163): the bytes at `I`, `I + 1`, `I + 2`, mod 4096, become the hundreds, tens and units of `V[x]`; every other byte reads
as before and nothing else changes, `I` included (R164; decisions D16, D22, logs 12 and 18). -/
def Obligations.LdBStoresDecimalDigits : Prop :=
  ∀ (x : RegIx) (s : State), Memory.wf s.mem →
    ∃ t, exec (.ldB x) s = .next t ∧ t = { s with mem := t.mem } ∧
      t.memRead s.index.toNat = BitVec.ofNat 8 ((s.getV x).toNat / 100) ∧
      t.memRead (s.index.toNat + 1) = BitVec.ofNat 8 ((s.getV x).toNat / 10 % 10) ∧
      t.memRead (s.index.toNat + 2) = BitVec.ofNat 8 ((s.getV x).toNat % 10) ∧
      ∀ a, a % 4096 ≠ s.index.toNat % 4096 → a % 4096 ≠ (s.index.toNat + 1) % 4096 →
        a % 4096 ≠ (s.index.toNat + 2) % 4096 → t.memRead a = s.memRead a

/-- The round trip of R163: 100 x the first byte + 10 x the second + the third is `V[x]`. -/
def Obligations.DecimalDigitsReconstruct : Prop :=
  ∀ (x : RegIx) (s t : State), Memory.wf s.mem → exec (.ldB x) s = .next t →
    100 * (t.memRead t.index.toNat).toNat + 10 * (t.memRead (t.index.toNat + 1)).toNat
      + (t.memRead (t.index.toNat + 2)).toNat = (t.getV x).toNat

/-- `ST_REGS` (R165): for k from 0 to x the byte at `I + k` mod 4096 becomes `V[k]`; every other byte reads as before and nothing else
changes, `I` included (decisions D16, D22, logs 12 and 18). -/
def Obligations.StRegsStoresTheBlock : Prop :=
  ∀ (x : RegIx) (s : State), Memory.wf s.mem →
    ∃ t, exec (.stRegs x) s = .next t ∧ t = { s with mem := t.mem } ∧
      (∀ k : RegIx, k ≤ x → t.memRead (s.index.toNat + k.toNat) = s.getV k) ∧
      ∀ a, (∀ k : RegIx, k ≤ x → a % 4096 ≠ (s.index.toNat + k.toNat) % 4096) → t.memRead a = s.memRead a

/-- `LD_REGS` (R166): for k from 0 to x, `V[k]` becomes the byte at `I + k` mod 4096; the registers above x and everything else, `I`
included, are unchanged (decisions D16, D22, logs 12 and 18). -/
def Obligations.LdRegsLoadsTheBlock : Prop :=
  ∀ (x : RegIx) (s : State),
    ∃ t, exec (.ldRegs x) s = .next t ∧ t = { s with v := t.v } ∧
      ∀ k : RegIx, t.getV k = if k ≤ x then s.memRead ((s.index.toNat + k.toNat) % 4096) else s.getV k

/-! ### Display (44_display.md) -/

/-- `CLS` (R180): the word 0x00E0 alone; every cell becomes 0 and a frame is put out; nothing else changes, `VF` included. -/
def Obligations.ClsClearsEveryCell : Prop :=
  (∀ op : Word, decode op = .ok .cls ↔ op = 0x00E0) ∧
  ∀ s : State, ∃ t, exec .cls s = .next t ∧ t = { s with disp := t.disp, frame := some t.disp } ∧
    ∀ px py, px < 64 → py < 32 → Display.cell t.disp px py = false

/-- `DRW` (R181 to R184): every cell becomes its old value XOR the sprite's bit for it, the sprite's bits off the display being
dropped; `VF` becomes 1 if some set cell met a 1 bit, else 0; a frame is put out; no other register and nothing else changes
(origin and rows read before `VF` is written: decision D15, log 16; row addresses wrap: D22, log 12; `I` stays: D16, log 18; the
frame is held in the model's own field: log 8). -/
def Obligations.DrwXorsTheSprite : Prop :=
  ∀ (x y : RegIx) (n : Count) (s : State),
    ∃ t, exec (.drw x y n) s = .next t ∧ t = { s with v := t.v, disp := t.disp, frame := some t.disp } ∧
      (∀ qx qy, qx < 64 → qy < 32 →
        Display.cell t.disp qx qy = (Display.cell s.disp qx qy ^^ s.drwBit x y n qx qy)) ∧
      (∀ z, z ≠ 15 → t.getV z = s.getV z) ∧
      (t.getV 15 = 0 ∨ t.getV 15 = 1) ∧
      (t.getV 15 = 1 ↔ ∃ qx qy, qx < 64 ∧ qy < 32 ∧ s.drwBit x y n qx qy = true ∧ Display.cell s.disp qx qy = true)

/-- Drawing the same sprite twice restores the display; and if the first draw met no set cell and changed the display, the second
reports a collision (R186). `VF` names no coordinate here, since the first draw writes it. -/
def Obligations.DrawingTwiceRestoresTheDisplay : Prop :=
  ∀ (x y : RegIx) (n : Count) (s t u : State), x ≠ 15 → y ≠ 15 →
    exec (.drw x y n) s = .next t → exec (.drw x y n) t = .next u →
    u.disp = s.disp ∧ (t.getV 15 = 0 → t.disp ≠ s.disp → u.getV 15 = 1)

/-! ### Keypad and timers (45_keypad_timers.md, 60_exceptions.md) -/

/-- `SKP` and `SKNP` (R200, R202): `PC` moves by 2 more, mod 4096, exactly when key `V[x]` mod 16 is pressed, or not pressed; nothing
else changes (the key number's mask is decision D12, log 13). -/
def Obligations.KeySkipsTestTheSnapshot : Prop :=
  ∀ (x : RegIx) (s : State),
    let skipped : Word := BitVec.ofNat 16 ((s.pc.toNat + 2) % 4096)
    let pressed := s.keys.getLsbD ((s.getV x).toNat % 16)
    exec (.skp x) s = .next { s with pc := if pressed = true then skipped else s.pc } ∧
    exec (.sknp x) s = .next { s with pc := if pressed = true then s.pc else skipped }

/-- `LD_VX_K` (R203): with no key pressed `PC` falls by 2 mod 4096 and nothing else changes; else `V[x]` becomes the least pressed
key's number and nothing else changes (the least of several: decision D11, log 14). -/
def Obligations.KeyWaitStallsOrTakesTheLeastKey : Prop :=
  ∀ (x : RegIx) (s : State),
    (s.keys = 0 → exec (.ldVxK x) s = .next { s with pc := BitVec.ofNat 16 ((s.pc.toNat + 4094) % 4096) }) ∧
    (s.keys ≠ 0 → ∃ t, exec (.ldVxK x) s = .next t ∧ t = { s with v := t.v } ∧ (∀ z, z ≠ x → t.getV z = s.getV z) ∧
      (t.getV x).toNat < 16 ∧ s.keys.getLsbD (t.getV x).toNat = true ∧
      ∀ j < (t.getV x).toNat, s.keys.getLsbD j = false)

/-- A step that finds no key pressed leaves `PC` at the key wait and changes no register, no memory, no stack and no display
(R203: "leaves the program counter unchanged (net)"). -/
def Obligations.StalledKeyWaitKeepsPc : Prop :=
  ∀ (s : State) (x : RegIx), s.pc.toNat < 4096 → decode s.fetchWord = .ok (.ldVxK x) → s.keys = 0 →
    ∃ t, step s = .next t ∧ t.pc = s.pc ∧ t.v = s.v ∧ t.index = s.index ∧ t.mem = s.mem ∧ t.stack = s.stack ∧
      t.sp = s.sp ∧ t.disp = s.disp ∧ t.frame = none

/-- `LD_VX_DT`, `LD_DT_VX`, `LD_ST_VX` (R204 to R206): `V[x]` becomes `DT`, `DT` becomes `V[x]`, `ST` becomes `V[x]`; nothing else
changes, `ACC` included (decision D27, log 20). -/
def Obligations.TimerRegistersMove : Prop :=
  ∀ (x : RegIx) (s : State),
    (∃ t, exec (.ldVxDt x) s = .next t ∧ t = { s with v := t.v } ∧ ∀ z, t.getV z = if z = x then s.dt else s.getV z) ∧
    exec (.ldDtVx x) s = .next { s with dt := s.getV x } ∧
    exec (.ldStVx x) s = .next { s with st := s.getV x }

/-- The timer phase (60_exceptions.md R234): with more than one step duration left `ACC` falls by 60 and nothing else changes; else
both timers fall by one, never below 0, `ACC` becomes one full period, and nothing else changes (saturation: decision D6,
log 19). -/
def Obligations.TimerPhaseTicksOrCountsDown : Prop :=
  ∀ s : State,
    (60 < s.acc → s.runTimers = { s with acc := s.acc - 60 }) ∧
    (s.acc ≤ 60 → s.runTimers =
      { s with dt := BitVec.ofNat 8 (s.dt.toNat - 1), st := BitVec.ofNat 8 (s.st.toNat - 1), acc := s.clockHz })

/-- The divider (60_exceptions.md R236): from a full accumulator, after j timer phases and no timer write each timer has lost one
count per ceil(`CLOCK_HZ` / 60) phases, never below 0, and the accumulator stands where that rhythm puts it. -/
def Obligations.TimersTickEveryPeriod : Prop :=
  ∀ (s : State) (j : Nat), 1 ≤ s.clockHz → s.acc = s.clockHz →
    let period := (s.clockHz + 59) / 60
    let t := State.runTimers^[j] s
    t.dt.toNat = s.dt.toNat - j / period ∧ t.st.toNat = s.st.toNat - j / period ∧
      t.acc = s.clockHz - 60 * (j % period)

/-! ### Outputs and the end of a run (60_exceptions.md) -/

/-- The host-facing outputs: the buzzer sounds exactly while `ST` is not 0, the clock period is 1/`CLOCK_HZ` second, the frame port
carries cell (px, py) at bit 64 * py + px, the faults have the codes 1 to 4 and no fault the code 0 (R225, R237, R238, R241;
decisions D9, D18, D19, logs 21 and 22). -/
def Obligations.OutputsFollowTheState : Prop :=
  (∀ s : State, (s.buzzer = true ↔ s.st.toNat ≠ 0) ∧ (0 < s.clockHz → s.clockPeriod * (s.clockHz : Rat) = 1)) ∧
  (∀ (d : Display) (px py : Nat) (hx : px < 64) (hy : py < 32),
    (Display.port d)[64 * py + px]'(by omega) = Display.cell d px py) ∧
  faultCode none = 0 ∧ (∀ op a, faultCode (some (.decodeError op a)) = 1) ∧
  faultCode (some (.stackFault .overflow)) = 2 ∧ faultCode (some (.stackFault .underflow)) = 3 ∧
  ∀ n, faultCode (some (.loadError n)) = 4

/-- A finished program stays finished: from a jump to self every step changes nothing but `ACC`, `DT`, `ST` and the model's own
frame and inputs (R247; decision D25, log 27). -/
def Obligations.JumpToSelfStaysFinished : Prop :=
  ∀ s : State, s.pc.toNat < 4096 → Finished s →
    ∃ t, step s = .next t ∧ Finished t ∧
      t = { s with dt := t.dt, st := t.st, acc := t.acc, frame := none, inputs := s.inputs.tail,
                   inputIndex := s.inputIndex + 1 }
end

