-- ==== Sys2Proof/Laws/Decode.lean ====
section
/-! SUPPORT. Laws/Decode.lean: the fields of each format, every word as a format of its fields, and what the decoder can
answer. -/

namespace Sys2Proof

/-! ### Formats and fields as numbers -/

/-- A concatenation as a number. -/
theorem toNat_append_eq {m n : Nat} (a : BitVec m) (b : BitVec n) : (a ++ b).toNat = a.toNat * 2 ^ n + b.toNat := by
  rw [BitVec.toNat_append, ← Nat.shiftLeft_add_eq_or_of_lt b.isLt, Nat.shiftLeft_eq]

theorem formatA_toNat (n3 : BitVec 4) (nnn : Addr) : (formatA n3 nnn).toNat = n3.toNat * 4096 + nnn.toNat :=
  toNat_append_eq n3 nnn

theorem formatXK_toNat (n3 : BitVec 4) (x : RegIx) (kk : Byte) :
    (formatXK n3 x kk).toNat = (n3.toNat * 16 + x.toNat) * 256 + kk.toNat :=
  (toNat_append_eq (n3 ++ x) kk).trans (by rw [toNat_append_eq]; rfl)

theorem formatXYN_toNat (n3 : BitVec 4) (x y : RegIx) (n : Count) :
    (formatXYN n3 x y n).toNat = ((n3.toNat * 16 + x.toNat) * 16 + y.toNat) * 16 + n.toNat :=
  (toNat_append_eq (n3 ++ x ++ y) n).trans (by rw [toNat_append_eq, toNat_append_eq]; rfl)

theorem fieldN3_toNat (op : Word) : (fieldN3 op).toNat = op.toNat / 4096 % 16 := by
  simp [fieldN3, BitVec.extractLsb'_toNat, Nat.shiftRight_eq_div_pow]
theorem fieldX_toNat (op : Word) : (fieldX op).toNat = op.toNat / 256 % 16 := by
  simp [fieldX, BitVec.extractLsb'_toNat, Nat.shiftRight_eq_div_pow]
theorem fieldY_toNat (op : Word) : (fieldY op).toNat = op.toNat / 16 % 16 := by
  simp [fieldY, BitVec.extractLsb'_toNat, Nat.shiftRight_eq_div_pow]
theorem fieldN_toNat (op : Word) : (fieldN op).toNat = op.toNat % 16 := by
  simp [fieldN, BitVec.extractLsb'_toNat]
theorem fieldKK_toNat (op : Word) : (fieldKK op).toNat = op.toNat % 256 := by
  simp [fieldKK, BitVec.extractLsb'_toNat]
theorem fieldNNN_toNat (op : Word) : (fieldNNN op).toNat = op.toNat % 4096 := by
  simp [fieldNNN, BitVec.extractLsb'_toNat]

/-! ### The fields of a format are what it was made of -/

theorem fieldN3_formatA (n3 : BitVec 4) (nnn : Addr) : fieldN3 (formatA n3 nnn) = n3 := by
  apply BitVec.eq_of_toNat_eq; rw [fieldN3_toNat, formatA_toNat]; omega
theorem fieldNNN_formatA (n3 : BitVec 4) (nnn : Addr) : fieldNNN (formatA n3 nnn) = nnn := by
  apply BitVec.eq_of_toNat_eq; rw [fieldNNN_toNat, formatA_toNat]; omega

theorem fieldN3_formatXK (n3 : BitVec 4) (x : RegIx) (kk : Byte) : fieldN3 (formatXK n3 x kk) = n3 := by
  apply BitVec.eq_of_toNat_eq; rw [fieldN3_toNat, formatXK_toNat]; omega
theorem fieldX_formatXK (n3 : BitVec 4) (x : RegIx) (kk : Byte) : fieldX (formatXK n3 x kk) = x := by
  apply BitVec.eq_of_toNat_eq; rw [fieldX_toNat, formatXK_toNat]; omega
theorem fieldKK_formatXK (n3 : BitVec 4) (x : RegIx) (kk : Byte) : fieldKK (formatXK n3 x kk) = kk := by
  apply BitVec.eq_of_toNat_eq; rw [fieldKK_toNat, formatXK_toNat]; omega

theorem fieldN3_formatXYN (n3 : BitVec 4) (x y : RegIx) (n : Count) : fieldN3 (formatXYN n3 x y n) = n3 := by
  apply BitVec.eq_of_toNat_eq; rw [fieldN3_toNat, formatXYN_toNat]; omega
theorem fieldX_formatXYN (n3 : BitVec 4) (x y : RegIx) (n : Count) : fieldX (formatXYN n3 x y n) = x := by
  apply BitVec.eq_of_toNat_eq; rw [fieldX_toNat, formatXYN_toNat]; omega
theorem fieldY_formatXYN (n3 : BitVec 4) (x y : RegIx) (n : Count) : fieldY (formatXYN n3 x y n) = y := by
  apply BitVec.eq_of_toNat_eq; rw [fieldY_toNat, formatXYN_toNat]; omega
theorem fieldN_formatXYN (n3 : BitVec 4) (x y : RegIx) (n : Count) : fieldN (formatXYN n3 x y n) = n := by
  apply BitVec.eq_of_toNat_eq; rw [fieldN_toNat, formatXYN_toNat]; omega

/-! ### Every word is each format of its fields -/

theorem eq_formatA (op : Word) : op = formatA (fieldN3 op) (fieldNNN op) := by
  apply BitVec.eq_of_toNat_eq; rw [formatA_toNat, fieldN3_toNat, fieldNNN_toNat]; omega
theorem eq_formatXK (op : Word) : op = formatXK (fieldN3 op) (fieldX op) (fieldKK op) := by
  apply BitVec.eq_of_toNat_eq; rw [formatXK_toNat, fieldN3_toNat, fieldX_toNat, fieldKK_toNat]; omega
theorem eq_formatXYN (op : Word) : op = formatXYN (fieldN3 op) (fieldX op) (fieldY op) (fieldN op) := by
  apply BitVec.eq_of_toNat_eq
  rw [formatXYN_toNat, fieldN3_toNat, fieldX_toNat, fieldY_toNat, fieldN_toNat]; omega

/-! ### Bytes and words -/

/-- The two bytes of a word make it again, the high byte first. -/
theorem wordOfBytes_hi_lo (op : Word) : wordOfBytes (hiByte op) (loByte op) = op := by
  apply BitVec.eq_of_toNat_eq
  refine (toNat_append_eq (hiByte op) (loByte op)).trans ?_
  simp [hiByte, loByte, BitVec.extractLsb'_toNat, Nat.shiftRight_eq_div_pow]; omega

/-! ### The decoder family by family -/

theorem decode_family0 {op : Word} (h : fieldN3 op = 0x0) :
    decode op = .ok (decodeFamily0 op) := by unfold decode; rw [h]; rfl
theorem decode_family1 {op : Word} (h : fieldN3 op = 0x1) :
    decode op = .ok (.jp (fieldNNN op)) := by unfold decode; rw [h]; rfl
theorem decode_family2 {op : Word} (h : fieldN3 op = 0x2) :
    decode op = .ok (.call (fieldNNN op)) := by unfold decode; rw [h]; rfl
theorem decode_family3 {op : Word} (h : fieldN3 op = 0x3) :
    decode op = .ok (.seImm (fieldX op) (fieldKK op)) := by unfold decode; rw [h]; rfl
theorem decode_family4 {op : Word} (h : fieldN3 op = 0x4) :
    decode op = .ok (.sneImm (fieldX op) (fieldKK op)) := by unfold decode; rw [h]; rfl
theorem decode_family5 {op : Word} (h : fieldN3 op = 0x5) :
    decode op = if fieldN op = 0 then .ok (.seReg (fieldX op) (fieldY op)) else .error (.illegal op) := by unfold decode; rw [h]; rfl
theorem decode_family6 {op : Word} (h : fieldN3 op = 0x6) :
    decode op = .ok (.ldImm (fieldX op) (fieldKK op)) := by unfold decode; rw [h]; rfl
theorem decode_family7 {op : Word} (h : fieldN3 op = 0x7) :
    decode op = .ok (.addImm (fieldX op) (fieldKK op)) := by unfold decode; rw [h]; rfl
theorem decode_family8 {op : Word} (h : fieldN3 op = 0x8) :
    decode op = decodeFamily8 op := by unfold decode; rw [h]; rfl
theorem decode_family9 {op : Word} (h : fieldN3 op = 0x9) :
    decode op = if fieldN op = 0 then .ok (.sneReg (fieldX op) (fieldY op)) else .error (.illegal op) := by unfold decode; rw [h]; rfl
theorem decode_familyA {op : Word} (h : fieldN3 op = 0xA) :
    decode op = .ok (.ldI (fieldNNN op)) := by unfold decode; rw [h]; rfl
theorem decode_familyB {op : Word} (h : fieldN3 op = 0xB) :
    decode op = .ok (.jpV0 (fieldNNN op)) := by unfold decode; rw [h]; rfl
theorem decode_familyC {op : Word} (h : fieldN3 op = 0xC) :
    decode op = .ok (.rnd (fieldX op) (fieldKK op)) := by unfold decode; rw [h]; rfl
theorem decode_familyD {op : Word} (h : fieldN3 op = 0xD) :
    decode op = .ok (.drw (fieldX op) (fieldY op) (fieldN op)) := by unfold decode; rw [h]; rfl
theorem decode_familyE {op : Word} (h : fieldN3 op = 0xE) :
    decode op = decodeFamilyE op := by unfold decode; rw [h]; rfl
theorem decode_familyF {op : Word} (h : fieldN3 op = 0xF) :
    decode op = decodeFamilyF op := by unfold decode; rw [h]; rfl

/-! ### What the decoder can answer -/

/-- A rejected word is rejected under its own name. -/
theorem decode_error {op : Word} {e : DecodeError} (h : decode op = .error e) : e = .illegal op := by
  unfold decode at h
  split at h
  all_goals first
    | (cases h)
    | (split at h <;> cases h; rfl)
    | skip
  · unfold decodeFamily8 at h
    split at h <;> cases h
    rfl
  · unfold decodeFamilyE at h
    split at h <;> cases h
    rfl
  · unfold decodeFamilyF at h
    split at h <;> cases h
    rfl

end Sys2Proof
end

