-- ==== Sys2Proof/Laws/Memory.lean ====
section
/-! SUPPORT. Laws/Memory.lean: memory as data: read after write, the canonical form is kept, and equal reads mean equal data. -/

namespace Sys2Proof.Machine

/-- Putting a byte in front is seen at its address and nowhere else. -/
theorem read_cons (a c : Nat) (b : Byte) (rest : Memory) (h : ∀ e ∈ rest, a < e.1) :
    Memory.read (Memory.cons a b rest) c = if c = a then b else Memory.read rest c := by
  have hun : ∀ m : Memory, (∀ e ∈ m, a < e.1) → Memory.read m a = Memory.unlisted a := by
    intro m hm
    induction m with
    | nil => rfl
    | cons e m ih =>
      have h1 := hm e (by simp)
      simp only [Memory.read]
      rw [if_neg (by omega)]
      exact ih (fun e he => hm e (by simp [he]))
  unfold Memory.cons
  split
  · next hb =>
    split
    · next hc => rw [hc, hun rest h, hb]
    · rfl
  · simp only [Memory.read]
    by_cases hc : c = a
    · simp [hc]
    · simp [hc, Ne.symm hc]

/-- The entries after a write: the old ones, and perhaps the one written. -/
theorem mem_write {m : Memory} {a : Nat} {b : Byte} {e : Host.Cell} (he : e ∈ Memory.write m a b) :
    (e = (a, b) ∧ b ≠ Memory.unlisted a) ∨ e ∈ m := by
  induction m with
  | nil =>
    simp only [Memory.write, Memory.cons] at he
    split at he
    · simp at he
    · simp at he; exact .inl ⟨he, by assumption⟩
  | cons x m ih =>
    obtain ⟨k, c⟩ := x
    simp only [Memory.write, Memory.cons] at he
    split at he
    · split at he
      · exact .inr he
      · rcases List.mem_cons.mp he with h | h
        · exact .inl ⟨h, by assumption⟩
        · exact .inr h
    · split at he
      · split at he
        · exact .inr (List.mem_cons_of_mem _ he)
        · rcases List.mem_cons.mp he with h | h
          · exact .inl ⟨h, by assumption⟩
          · exact .inr (List.mem_cons_of_mem _ h)
      · rcases List.mem_cons.mp he with h | h
        · exact .inr (by simp [h])
        · rcases ih h with h | h
          · exact .inl h
          · exact .inr (List.mem_cons_of_mem _ h)

/-- A write keeps the addresses strictly rising. -/
theorem write_pairwise {m : Memory} (a : Nat) (b : Byte) (h : m.Pairwise (fun c d => c.1 < d.1)) :
    (Memory.write m a b).Pairwise (fun c d => c.1 < d.1) := by
  induction m with
  | nil => simp only [Memory.write, Memory.cons]; split <;> simp
  | cons x m ih =>
    obtain ⟨k, c⟩ := x
    obtain ⟨h1, h2⟩ := List.pairwise_cons.mp h
    simp only [Memory.write, Memory.cons]
    split
    · next hlt =>
      split
      · exact h
      · refine List.pairwise_cons.mpr ⟨?_, h⟩
        intro e he
        rcases List.mem_cons.mp he with rfl | he
        · exact hlt
        · exact Nat.lt_trans hlt (h1 e he)
    · split
      · next heq =>
        split
        · exact h2
        · exact List.pairwise_cons.mpr ⟨fun e he => by simpa [heq] using h1 e he, h2⟩
      · refine List.pairwise_cons.mpr ⟨?_, ih h2⟩
        intro e he
        rcases mem_write he with ⟨rfl, -⟩ | he
        · simp; omega
        · exact h1 e he

/-- A write inside the address space keeps the canonical form. -/
theorem write_wf {m : Memory} {a : Nat} (b : Byte) (ha : a < memSize) (h : Memory.wf m) :
    Memory.wf (Memory.write m a b) := by
  refine ⟨write_pairwise a b h.1, fun e he => ?_⟩
  rcases mem_write he with ⟨rfl, hb⟩ | he
  · exact ⟨ha, hb⟩
  · exact h.2 e he

/-- A write is seen at its address and nowhere else. -/
theorem read_write {m : Memory} (h : m.Pairwise (fun c d => c.1 < d.1)) (a c : Nat) (b : Byte) :
    Memory.read (Memory.write m a b) c = if c = a then b else Memory.read m c := by
  induction m with
  | nil => simpa [Memory.write] using read_cons a c b [] (by simp)
  | cons x m ih =>
    obtain ⟨k, v⟩ := x
    obtain ⟨h1, h2⟩ := List.pairwise_cons.mp h
    simp only [Memory.write]
    split
    · next hlt =>
      refine read_cons a c b _ (fun e he => ?_)
      rcases List.mem_cons.mp he with rfl | he
      · exact hlt
      · exact Nat.lt_trans hlt (h1 e he)
    · split
      · next heq =>
        rw [read_cons a c b m (fun e he => by simpa [heq] using h1 e he)]
        simp only [Memory.read]
        split
        · rfl
        · rw [if_neg (by omega)]
      · simp only [Memory.read, ih h2]
        by_cases hk : k = c
        · rw [if_pos hk, if_pos hk, if_neg (by omega)]
        · rw [if_neg hk, if_neg hk]

/-- Entries of a canonical memory below its first address read as unlisted. -/
theorem read_of_lt {m : Memory} {a : Nat} (h : ∀ e ∈ m, a < e.1) : Memory.read m a = Memory.unlisted a := by
  induction m with
  | nil => rfl
  | cons e m ih =>
    have := h e (by simp)
    simp only [Memory.read]
    rw [if_neg (by omega)]
    exact ih (fun e he => h e (by simp [he]))

/-- Two canonical memories that read the same are the same list. -/
theorem eq_of_read_eq {m n : Memory} (hm : Memory.wf m) (hn : Memory.wf n)
    (h : ∀ a, Memory.read m a = Memory.read n a) : m = n := by
  induction m generalizing n with
  | nil =>
    cases n with
    | nil => rfl
    | cons y n =>
      have := h y.1
      simp [Memory.read] at this
      exact absurd this.symm (hn.2 y (by simp)).2
  | cons x m ih =>
    obtain ⟨hx, hm'⟩ := List.pairwise_cons.mp hm.1
    cases n with
    | nil =>
      have := h x.1
      simp [Memory.read] at this
      exact absurd this (hm.2 x (by simp)).2
    | cons y n =>
      obtain ⟨hy, hn'⟩ := List.pairwise_cons.mp hn.1
      have hxy : x.1 = y.1 := by
        rcases Nat.lt_trichotomy x.1 y.1 with hlt | heq | hgt
        · have := h x.1
          rw [read_of_lt (m := y :: n) (fun e he => by
            rcases List.mem_cons.mp he with rfl | he
            · exact hlt
            · exact Nat.lt_trans hlt (hy e he))] at this
          simp [Memory.read] at this
          exact absurd this (hm.2 x (by simp)).2
        · exact heq
        · have := h y.1
          rw [read_of_lt (m := x :: m) (fun e he => by
            rcases List.mem_cons.mp he with rfl | he
            · exact hgt
            · exact Nat.lt_trans hgt (hx e he))] at this
          simp [Memory.read] at this
          exact absurd this.symm (hn.2 y (by simp)).2
      have hb : x.2 = y.2 := by
        have := h x.1
        simpa [Memory.read, hxy] using this
      have hxye : x = y := Prod.ext hxy hb
      subst hxye
      congr 1
      refine ih ⟨hm', fun e he => hm.2 e (by simp [he])⟩ ⟨hn', fun e he => hn.2 e (by simp [he])⟩ (fun a => ?_)
      by_cases ha : x.1 = a
      · rw [read_of_lt (fun e he => ha ▸ hx e he), read_of_lt (fun e he => ha ▸ hy e he)]
      · simpa [Memory.read, ha] using h a

/-- The memory of the reset state has the canonical form. -/
theorem reset_mem_wf : Memory.wf State.reset.mem := ⟨List.Pairwise.nil, fun _ h => nomatch h⟩

end Sys2Proof.Machine
end

