-- ==== Sys2Proof/Laws/State.lean ====
section
/-! SUPPORT. Laws/State.lean: what each operation of Machine/Ops.lean does to each field of the state, one lemma per field per
operation, so that no proof unfolds a record update. -/

namespace Sys2Proof.Machine

variable (s : State)

/-! ### `setV` -/

@[simp] theorem setV_mem (x : RegIx) (b : Byte) : (s.setV x b).mem = s.mem := rfl
@[simp] theorem setV_v (x : RegIx) (b : Byte) : (s.setV x b).v = s.v.set x.toNat b x.isLt := rfl
@[simp] theorem setV_pc (x : RegIx) (b : Byte) : (s.setV x b).pc = s.pc := rfl
@[simp] theorem setV_index (x : RegIx) (b : Byte) : (s.setV x b).index = s.index := rfl
@[simp] theorem setV_stack (x : RegIx) (b : Byte) : (s.setV x b).stack = s.stack := rfl
@[simp] theorem setV_sp (x : RegIx) (b : Byte) : (s.setV x b).sp = s.sp := rfl
@[simp] theorem setV_disp (x : RegIx) (b : Byte) : (s.setV x b).disp = s.disp := rfl
@[simp] theorem setV_dt (x : RegIx) (b : Byte) : (s.setV x b).dt = s.dt := rfl
@[simp] theorem setV_st (x : RegIx) (b : Byte) : (s.setV x b).st = s.st := rfl
@[simp] theorem setV_acc (x : RegIx) (b : Byte) : (s.setV x b).acc = s.acc := rfl
@[simp] theorem setV_clockHz (x : RegIx) (b : Byte) : (s.setV x b).clockHz = s.clockHz := rfl
@[simp] theorem setV_timerPhase (x : RegIx) (b : Byte) : (s.setV x b).timerPhase = s.timerPhase := rfl
@[simp] theorem setV_frame (x : RegIx) (b : Byte) : (s.setV x b).frame = s.frame := rfl
@[simp] theorem setV_inputs (x : RegIx) (b : Byte) : (s.setV x b).inputs = s.inputs := rfl
@[simp] theorem setV_inputIndex (x : RegIx) (b : Byte) : (s.setV x b).inputIndex = s.inputIndex := rfl
@[simp] theorem setV_memRead (x : RegIx) (b : Byte) (z : Nat) : (s.setV x b).memRead z = s.memRead z := rfl
@[simp] theorem setV_keys (x : RegIx) (b : Byte) : (s.setV x b).keys = s.keys := rfl
@[simp] theorem setV_rand (x : RegIx) (b : Byte) : (s.setV x b).rand = s.rand := rfl

/-! ### `setFlag` -/

@[simp] theorem setFlag_mem (c : Bool) : (s.setFlag c).mem = s.mem := rfl
@[simp] theorem setFlag_v (c : Bool) : (s.setFlag c).v = s.v.set vf.toNat (flagByte c) vf.isLt := rfl
@[simp] theorem setFlag_pc (c : Bool) : (s.setFlag c).pc = s.pc := rfl
@[simp] theorem setFlag_index (c : Bool) : (s.setFlag c).index = s.index := rfl
@[simp] theorem setFlag_stack (c : Bool) : (s.setFlag c).stack = s.stack := rfl
@[simp] theorem setFlag_sp (c : Bool) : (s.setFlag c).sp = s.sp := rfl
@[simp] theorem setFlag_disp (c : Bool) : (s.setFlag c).disp = s.disp := rfl
@[simp] theorem setFlag_dt (c : Bool) : (s.setFlag c).dt = s.dt := rfl
@[simp] theorem setFlag_st (c : Bool) : (s.setFlag c).st = s.st := rfl
@[simp] theorem setFlag_acc (c : Bool) : (s.setFlag c).acc = s.acc := rfl
@[simp] theorem setFlag_clockHz (c : Bool) : (s.setFlag c).clockHz = s.clockHz := rfl
@[simp] theorem setFlag_timerPhase (c : Bool) : (s.setFlag c).timerPhase = s.timerPhase := rfl
@[simp] theorem setFlag_frame (c : Bool) : (s.setFlag c).frame = s.frame := rfl
@[simp] theorem setFlag_inputs (c : Bool) : (s.setFlag c).inputs = s.inputs := rfl
@[simp] theorem setFlag_inputIndex (c : Bool) : (s.setFlag c).inputIndex = s.inputIndex := rfl
@[simp] theorem setFlag_memRead (c : Bool) (z : Nat) : (s.setFlag c).memRead z = s.memRead z := rfl
@[simp] theorem setFlag_keys (c : Bool) : (s.setFlag c).keys = s.keys := rfl
@[simp] theorem setFlag_rand (c : Bool) : (s.setFlag c).rand = s.rand := rfl

/-! ### `memWrite` -/

@[simp] theorem memWrite_mem (a : Nat) (b : Byte) : (s.memWrite a b).mem = s.mem.write (a % memSize) b := rfl
@[simp] theorem memWrite_v (a : Nat) (b : Byte) : (s.memWrite a b).v = s.v := rfl
@[simp] theorem memWrite_pc (a : Nat) (b : Byte) : (s.memWrite a b).pc = s.pc := rfl
@[simp] theorem memWrite_index (a : Nat) (b : Byte) : (s.memWrite a b).index = s.index := rfl
@[simp] theorem memWrite_stack (a : Nat) (b : Byte) : (s.memWrite a b).stack = s.stack := rfl
@[simp] theorem memWrite_sp (a : Nat) (b : Byte) : (s.memWrite a b).sp = s.sp := rfl
@[simp] theorem memWrite_disp (a : Nat) (b : Byte) : (s.memWrite a b).disp = s.disp := rfl
@[simp] theorem memWrite_dt (a : Nat) (b : Byte) : (s.memWrite a b).dt = s.dt := rfl
@[simp] theorem memWrite_st (a : Nat) (b : Byte) : (s.memWrite a b).st = s.st := rfl
@[simp] theorem memWrite_acc (a : Nat) (b : Byte) : (s.memWrite a b).acc = s.acc := rfl
@[simp] theorem memWrite_clockHz (a : Nat) (b : Byte) : (s.memWrite a b).clockHz = s.clockHz := rfl
@[simp] theorem memWrite_timerPhase (a : Nat) (b : Byte) : (s.memWrite a b).timerPhase = s.timerPhase := rfl
@[simp] theorem memWrite_frame (a : Nat) (b : Byte) : (s.memWrite a b).frame = s.frame := rfl
@[simp] theorem memWrite_inputs (a : Nat) (b : Byte) : (s.memWrite a b).inputs = s.inputs := rfl
@[simp] theorem memWrite_inputIndex (a : Nat) (b : Byte) : (s.memWrite a b).inputIndex = s.inputIndex := rfl
@[simp] theorem memWrite_getV (a : Nat) (b : Byte) (z : RegIx) : (s.memWrite a b).getV z = s.getV z := rfl
@[simp] theorem memWrite_keys (a : Nat) (b : Byte) : (s.memWrite a b).keys = s.keys := rfl
@[simp] theorem memWrite_rand (a : Nat) (b : Byte) : (s.memWrite a b).rand = s.rand := rfl

/-! ### `setPc` -/

@[simp] theorem setPc_mem (t : Word) : (s.setPc t).mem = s.mem := rfl
@[simp] theorem setPc_v (t : Word) : (s.setPc t).v = s.v := rfl
@[simp] theorem setPc_pc (t : Word) : (s.setPc t).pc = mask12 t := rfl
@[simp] theorem setPc_index (t : Word) : (s.setPc t).index = s.index := rfl
@[simp] theorem setPc_stack (t : Word) : (s.setPc t).stack = s.stack := rfl
@[simp] theorem setPc_sp (t : Word) : (s.setPc t).sp = s.sp := rfl
@[simp] theorem setPc_disp (t : Word) : (s.setPc t).disp = s.disp := rfl
@[simp] theorem setPc_dt (t : Word) : (s.setPc t).dt = s.dt := rfl
@[simp] theorem setPc_st (t : Word) : (s.setPc t).st = s.st := rfl
@[simp] theorem setPc_acc (t : Word) : (s.setPc t).acc = s.acc := rfl
@[simp] theorem setPc_clockHz (t : Word) : (s.setPc t).clockHz = s.clockHz := rfl
@[simp] theorem setPc_timerPhase (t : Word) : (s.setPc t).timerPhase = s.timerPhase := rfl
@[simp] theorem setPc_frame (t : Word) : (s.setPc t).frame = s.frame := rfl
@[simp] theorem setPc_inputs (t : Word) : (s.setPc t).inputs = s.inputs := rfl
@[simp] theorem setPc_inputIndex (t : Word) : (s.setPc t).inputIndex = s.inputIndex := rfl
@[simp] theorem setPc_getV (t : Word) (z : RegIx) : (s.setPc t).getV z = s.getV z := rfl
@[simp] theorem setPc_memRead (t : Word) (z : Nat) : (s.setPc t).memRead z = s.memRead z := rfl
@[simp] theorem setPc_keys (t : Word) : (s.setPc t).keys = s.keys := rfl
@[simp] theorem setPc_rand (t : Word) : (s.setPc t).rand = s.rand := rfl

/-! ### `advancePc` -/

@[simp] theorem advancePc_mem : (s.advancePc).mem = s.mem := rfl
@[simp] theorem advancePc_v : (s.advancePc).v = s.v := rfl
@[simp] theorem advancePc_pc : (s.advancePc).pc = mask12 (s.pc + 2) := rfl
@[simp] theorem advancePc_index : (s.advancePc).index = s.index := rfl
@[simp] theorem advancePc_stack : (s.advancePc).stack = s.stack := rfl
@[simp] theorem advancePc_sp : (s.advancePc).sp = s.sp := rfl
@[simp] theorem advancePc_disp : (s.advancePc).disp = s.disp := rfl
@[simp] theorem advancePc_dt : (s.advancePc).dt = s.dt := rfl
@[simp] theorem advancePc_st : (s.advancePc).st = s.st := rfl
@[simp] theorem advancePc_acc : (s.advancePc).acc = s.acc := rfl
@[simp] theorem advancePc_clockHz : (s.advancePc).clockHz = s.clockHz := rfl
@[simp] theorem advancePc_timerPhase : (s.advancePc).timerPhase = s.timerPhase := rfl
@[simp] theorem advancePc_frame : (s.advancePc).frame = s.frame := rfl
@[simp] theorem advancePc_inputs : (s.advancePc).inputs = s.inputs := rfl
@[simp] theorem advancePc_inputIndex : (s.advancePc).inputIndex = s.inputIndex := rfl
@[simp] theorem advancePc_getV (z : RegIx) : (s.advancePc).getV z = s.getV z := rfl
@[simp] theorem advancePc_memRead (z : Nat) : (s.advancePc).memRead z = s.memRead z := rfl
@[simp] theorem advancePc_keys : (s.advancePc).keys = s.keys := rfl
@[simp] theorem advancePc_rand : (s.advancePc).rand = s.rand := rfl

/-! ### `rewindPc` -/

@[simp] theorem rewindPc_mem : (s.rewindPc).mem = s.mem := rfl
@[simp] theorem rewindPc_v : (s.rewindPc).v = s.v := rfl
@[simp] theorem rewindPc_pc : (s.rewindPc).pc = mask12 (s.pc - 2) := rfl
@[simp] theorem rewindPc_index : (s.rewindPc).index = s.index := rfl
@[simp] theorem rewindPc_stack : (s.rewindPc).stack = s.stack := rfl
@[simp] theorem rewindPc_sp : (s.rewindPc).sp = s.sp := rfl
@[simp] theorem rewindPc_disp : (s.rewindPc).disp = s.disp := rfl
@[simp] theorem rewindPc_dt : (s.rewindPc).dt = s.dt := rfl
@[simp] theorem rewindPc_st : (s.rewindPc).st = s.st := rfl
@[simp] theorem rewindPc_acc : (s.rewindPc).acc = s.acc := rfl
@[simp] theorem rewindPc_clockHz : (s.rewindPc).clockHz = s.clockHz := rfl
@[simp] theorem rewindPc_timerPhase : (s.rewindPc).timerPhase = s.timerPhase := rfl
@[simp] theorem rewindPc_frame : (s.rewindPc).frame = s.frame := rfl
@[simp] theorem rewindPc_inputs : (s.rewindPc).inputs = s.inputs := rfl
@[simp] theorem rewindPc_inputIndex : (s.rewindPc).inputIndex = s.inputIndex := rfl
@[simp] theorem rewindPc_getV (z : RegIx) : (s.rewindPc).getV z = s.getV z := rfl
@[simp] theorem rewindPc_memRead (z : Nat) : (s.rewindPc).memRead z = s.memRead z := rfl
@[simp] theorem rewindPc_keys : (s.rewindPc).keys = s.keys := rfl
@[simp] theorem rewindPc_rand : (s.rewindPc).rand = s.rand := rfl

/-! ### `skipIf` -/

@[simp] theorem skipIf_mem (c : Bool) : (s.skipIf c).mem = s.mem := rfl
@[simp] theorem skipIf_v (c : Bool) : (s.skipIf c).v = s.v := rfl
@[simp] theorem skipIf_pc (c : Bool) : (s.skipIf c).pc = if c then mask12 (s.pc + 2) else s.pc := rfl
@[simp] theorem skipIf_index (c : Bool) : (s.skipIf c).index = s.index := rfl
@[simp] theorem skipIf_stack (c : Bool) : (s.skipIf c).stack = s.stack := rfl
@[simp] theorem skipIf_sp (c : Bool) : (s.skipIf c).sp = s.sp := rfl
@[simp] theorem skipIf_disp (c : Bool) : (s.skipIf c).disp = s.disp := rfl
@[simp] theorem skipIf_dt (c : Bool) : (s.skipIf c).dt = s.dt := rfl
@[simp] theorem skipIf_st (c : Bool) : (s.skipIf c).st = s.st := rfl
@[simp] theorem skipIf_acc (c : Bool) : (s.skipIf c).acc = s.acc := rfl
@[simp] theorem skipIf_clockHz (c : Bool) : (s.skipIf c).clockHz = s.clockHz := rfl
@[simp] theorem skipIf_timerPhase (c : Bool) : (s.skipIf c).timerPhase = s.timerPhase := rfl
@[simp] theorem skipIf_frame (c : Bool) : (s.skipIf c).frame = s.frame := rfl
@[simp] theorem skipIf_inputs (c : Bool) : (s.skipIf c).inputs = s.inputs := rfl
@[simp] theorem skipIf_inputIndex (c : Bool) : (s.skipIf c).inputIndex = s.inputIndex := rfl
@[simp] theorem skipIf_getV (c : Bool) (z : RegIx) : (s.skipIf c).getV z = s.getV z := rfl
@[simp] theorem skipIf_memRead (c : Bool) (z : Nat) : (s.skipIf c).memRead z = s.memRead z := rfl
@[simp] theorem skipIf_keys (c : Bool) : (s.skipIf c).keys = s.keys := rfl
@[simp] theorem skipIf_rand (c : Bool) : (s.skipIf c).rand = s.rand := rfl

/-! ### `setIndex` -/

@[simp] theorem setIndex_mem (a : Word) : (s.setIndex a).mem = s.mem := rfl
@[simp] theorem setIndex_v (a : Word) : (s.setIndex a).v = s.v := rfl
@[simp] theorem setIndex_pc (a : Word) : (s.setIndex a).pc = s.pc := rfl
@[simp] theorem setIndex_index (a : Word) : (s.setIndex a).index = mask12 a := rfl
@[simp] theorem setIndex_stack (a : Word) : (s.setIndex a).stack = s.stack := rfl
@[simp] theorem setIndex_sp (a : Word) : (s.setIndex a).sp = s.sp := rfl
@[simp] theorem setIndex_disp (a : Word) : (s.setIndex a).disp = s.disp := rfl
@[simp] theorem setIndex_dt (a : Word) : (s.setIndex a).dt = s.dt := rfl
@[simp] theorem setIndex_st (a : Word) : (s.setIndex a).st = s.st := rfl
@[simp] theorem setIndex_acc (a : Word) : (s.setIndex a).acc = s.acc := rfl
@[simp] theorem setIndex_clockHz (a : Word) : (s.setIndex a).clockHz = s.clockHz := rfl
@[simp] theorem setIndex_timerPhase (a : Word) : (s.setIndex a).timerPhase = s.timerPhase := rfl
@[simp] theorem setIndex_frame (a : Word) : (s.setIndex a).frame = s.frame := rfl
@[simp] theorem setIndex_inputs (a : Word) : (s.setIndex a).inputs = s.inputs := rfl
@[simp] theorem setIndex_inputIndex (a : Word) : (s.setIndex a).inputIndex = s.inputIndex := rfl
@[simp] theorem setIndex_getV (a : Word) (z : RegIx) : (s.setIndex a).getV z = s.getV z := rfl
@[simp] theorem setIndex_memRead (a : Word) (z : Nat) : (s.setIndex a).memRead z = s.memRead z := rfl
@[simp] theorem setIndex_keys (a : Word) : (s.setIndex a).keys = s.keys := rfl
@[simp] theorem setIndex_rand (a : Word) : (s.setIndex a).rand = s.rand := rfl

/-! ### `push` -/

@[simp] theorem push_mem (w : Word) (h : s.sp.val < 16) : (s.push w h).mem = s.mem := rfl
@[simp] theorem push_v (w : Word) (h : s.sp.val < 16) : (s.push w h).v = s.v := rfl
@[simp] theorem push_pc (w : Word) (h : s.sp.val < 16) : (s.push w h).pc = s.pc := rfl
@[simp] theorem push_index (w : Word) (h : s.sp.val < 16) : (s.push w h).index = s.index := rfl
@[simp] theorem push_stack (w : Word) (h : s.sp.val < 16) : (s.push w h).stack = s.stack.set s.sp.val w h := rfl
@[simp] theorem push_sp (w : Word) (h : s.sp.val < 16) : (s.push w h).sp = ⟨s.sp.val + 1, by omega⟩ := rfl
@[simp] theorem push_disp (w : Word) (h : s.sp.val < 16) : (s.push w h).disp = s.disp := rfl
@[simp] theorem push_dt (w : Word) (h : s.sp.val < 16) : (s.push w h).dt = s.dt := rfl
@[simp] theorem push_st (w : Word) (h : s.sp.val < 16) : (s.push w h).st = s.st := rfl
@[simp] theorem push_acc (w : Word) (h : s.sp.val < 16) : (s.push w h).acc = s.acc := rfl
@[simp] theorem push_clockHz (w : Word) (h : s.sp.val < 16) : (s.push w h).clockHz = s.clockHz := rfl
@[simp] theorem push_timerPhase (w : Word) (h : s.sp.val < 16) : (s.push w h).timerPhase = s.timerPhase := rfl
@[simp] theorem push_frame (w : Word) (h : s.sp.val < 16) : (s.push w h).frame = s.frame := rfl
@[simp] theorem push_inputs (w : Word) (h : s.sp.val < 16) : (s.push w h).inputs = s.inputs := rfl
@[simp] theorem push_inputIndex (w : Word) (h : s.sp.val < 16) : (s.push w h).inputIndex = s.inputIndex := rfl
@[simp] theorem push_getV (w : Word) (h : s.sp.val < 16) (z : RegIx) : (s.push w h).getV z = s.getV z := rfl
@[simp] theorem push_memRead (w : Word) (h : s.sp.val < 16) (z : Nat) : (s.push w h).memRead z = s.memRead z := rfl
@[simp] theorem push_keys (w : Word) (h : s.sp.val < 16) : (s.push w h).keys = s.keys := rfl
@[simp] theorem push_rand (w : Word) (h : s.sp.val < 16) : (s.push w h).rand = s.rand := rfl

/-! ### `pop` -/

@[simp] theorem pop_mem : (s.pop).mem = s.mem := rfl
@[simp] theorem pop_v : (s.pop).v = s.v := rfl
@[simp] theorem pop_pc : (s.pop).pc = s.pc := rfl
@[simp] theorem pop_index : (s.pop).index = s.index := rfl
@[simp] theorem pop_stack : (s.pop).stack = s.stack := rfl
@[simp] theorem pop_sp : (s.pop).sp = ⟨s.sp.val - 1, by omega⟩ := rfl
@[simp] theorem pop_disp : (s.pop).disp = s.disp := rfl
@[simp] theorem pop_dt : (s.pop).dt = s.dt := rfl
@[simp] theorem pop_st : (s.pop).st = s.st := rfl
@[simp] theorem pop_acc : (s.pop).acc = s.acc := rfl
@[simp] theorem pop_clockHz : (s.pop).clockHz = s.clockHz := rfl
@[simp] theorem pop_timerPhase : (s.pop).timerPhase = s.timerPhase := rfl
@[simp] theorem pop_frame : (s.pop).frame = s.frame := rfl
@[simp] theorem pop_inputs : (s.pop).inputs = s.inputs := rfl
@[simp] theorem pop_inputIndex : (s.pop).inputIndex = s.inputIndex := rfl
@[simp] theorem pop_getV (z : RegIx) : (s.pop).getV z = s.getV z := rfl
@[simp] theorem pop_memRead (z : Nat) : (s.pop).memRead z = s.memRead z := rfl
@[simp] theorem pop_keys : (s.pop).keys = s.keys := rfl
@[simp] theorem pop_rand : (s.pop).rand = s.rand := rfl

/-! ### `setDisp` -/

@[simp] theorem setDisp_mem (d : Display) : (s.setDisp d).mem = s.mem := rfl
@[simp] theorem setDisp_v (d : Display) : (s.setDisp d).v = s.v := rfl
@[simp] theorem setDisp_pc (d : Display) : (s.setDisp d).pc = s.pc := rfl
@[simp] theorem setDisp_index (d : Display) : (s.setDisp d).index = s.index := rfl
@[simp] theorem setDisp_stack (d : Display) : (s.setDisp d).stack = s.stack := rfl
@[simp] theorem setDisp_sp (d : Display) : (s.setDisp d).sp = s.sp := rfl
@[simp] theorem setDisp_disp (d : Display) : (s.setDisp d).disp = d := rfl
@[simp] theorem setDisp_dt (d : Display) : (s.setDisp d).dt = s.dt := rfl
@[simp] theorem setDisp_st (d : Display) : (s.setDisp d).st = s.st := rfl
@[simp] theorem setDisp_acc (d : Display) : (s.setDisp d).acc = s.acc := rfl
@[simp] theorem setDisp_clockHz (d : Display) : (s.setDisp d).clockHz = s.clockHz := rfl
@[simp] theorem setDisp_timerPhase (d : Display) : (s.setDisp d).timerPhase = s.timerPhase := rfl
@[simp] theorem setDisp_frame (d : Display) : (s.setDisp d).frame = s.frame := rfl
@[simp] theorem setDisp_inputs (d : Display) : (s.setDisp d).inputs = s.inputs := rfl
@[simp] theorem setDisp_inputIndex (d : Display) : (s.setDisp d).inputIndex = s.inputIndex := rfl
@[simp] theorem setDisp_getV (d : Display) (z : RegIx) : (s.setDisp d).getV z = s.getV z := rfl
@[simp] theorem setDisp_memRead (d : Display) (z : Nat) : (s.setDisp d).memRead z = s.memRead z := rfl
@[simp] theorem setDisp_keys (d : Display) : (s.setDisp d).keys = s.keys := rfl
@[simp] theorem setDisp_rand (d : Display) : (s.setDisp d).rand = s.rand := rfl

/-! ### `emitFrame` -/

@[simp] theorem emitFrame_mem : (s.emitFrame).mem = s.mem := rfl
@[simp] theorem emitFrame_v : (s.emitFrame).v = s.v := rfl
@[simp] theorem emitFrame_pc : (s.emitFrame).pc = s.pc := rfl
@[simp] theorem emitFrame_index : (s.emitFrame).index = s.index := rfl
@[simp] theorem emitFrame_stack : (s.emitFrame).stack = s.stack := rfl
@[simp] theorem emitFrame_sp : (s.emitFrame).sp = s.sp := rfl
@[simp] theorem emitFrame_disp : (s.emitFrame).disp = s.disp := rfl
@[simp] theorem emitFrame_dt : (s.emitFrame).dt = s.dt := rfl
@[simp] theorem emitFrame_st : (s.emitFrame).st = s.st := rfl
@[simp] theorem emitFrame_acc : (s.emitFrame).acc = s.acc := rfl
@[simp] theorem emitFrame_clockHz : (s.emitFrame).clockHz = s.clockHz := rfl
@[simp] theorem emitFrame_timerPhase : (s.emitFrame).timerPhase = s.timerPhase := rfl
@[simp] theorem emitFrame_frame : (s.emitFrame).frame = some s.disp := rfl
@[simp] theorem emitFrame_inputs : (s.emitFrame).inputs = s.inputs := rfl
@[simp] theorem emitFrame_inputIndex : (s.emitFrame).inputIndex = s.inputIndex := rfl
@[simp] theorem emitFrame_getV (z : RegIx) : (s.emitFrame).getV z = s.getV z := rfl
@[simp] theorem emitFrame_memRead (z : Nat) : (s.emitFrame).memRead z = s.memRead z := rfl
@[simp] theorem emitFrame_keys : (s.emitFrame).keys = s.keys := rfl
@[simp] theorem emitFrame_rand : (s.emitFrame).rand = s.rand := rfl

/-! ### `setDt` -/

@[simp] theorem setDt_mem (b : Byte) : (s.setDt b).mem = s.mem := rfl
@[simp] theorem setDt_v (b : Byte) : (s.setDt b).v = s.v := rfl
@[simp] theorem setDt_pc (b : Byte) : (s.setDt b).pc = s.pc := rfl
@[simp] theorem setDt_index (b : Byte) : (s.setDt b).index = s.index := rfl
@[simp] theorem setDt_stack (b : Byte) : (s.setDt b).stack = s.stack := rfl
@[simp] theorem setDt_sp (b : Byte) : (s.setDt b).sp = s.sp := rfl
@[simp] theorem setDt_disp (b : Byte) : (s.setDt b).disp = s.disp := rfl
@[simp] theorem setDt_dt (b : Byte) : (s.setDt b).dt = b := rfl
@[simp] theorem setDt_st (b : Byte) : (s.setDt b).st = s.st := rfl
@[simp] theorem setDt_acc (b : Byte) : (s.setDt b).acc = s.acc := rfl
@[simp] theorem setDt_clockHz (b : Byte) : (s.setDt b).clockHz = s.clockHz := rfl
@[simp] theorem setDt_timerPhase (b : Byte) : (s.setDt b).timerPhase = s.timerPhase := rfl
@[simp] theorem setDt_frame (b : Byte) : (s.setDt b).frame = s.frame := rfl
@[simp] theorem setDt_inputs (b : Byte) : (s.setDt b).inputs = s.inputs := rfl
@[simp] theorem setDt_inputIndex (b : Byte) : (s.setDt b).inputIndex = s.inputIndex := rfl
@[simp] theorem setDt_getV (b : Byte) (z : RegIx) : (s.setDt b).getV z = s.getV z := rfl
@[simp] theorem setDt_memRead (b : Byte) (z : Nat) : (s.setDt b).memRead z = s.memRead z := rfl
@[simp] theorem setDt_keys (b : Byte) : (s.setDt b).keys = s.keys := rfl
@[simp] theorem setDt_rand (b : Byte) : (s.setDt b).rand = s.rand := rfl

/-! ### `setSt` -/

@[simp] theorem setSt_mem (b : Byte) : (s.setSt b).mem = s.mem := rfl
@[simp] theorem setSt_v (b : Byte) : (s.setSt b).v = s.v := rfl
@[simp] theorem setSt_pc (b : Byte) : (s.setSt b).pc = s.pc := rfl
@[simp] theorem setSt_index (b : Byte) : (s.setSt b).index = s.index := rfl
@[simp] theorem setSt_stack (b : Byte) : (s.setSt b).stack = s.stack := rfl
@[simp] theorem setSt_sp (b : Byte) : (s.setSt b).sp = s.sp := rfl
@[simp] theorem setSt_disp (b : Byte) : (s.setSt b).disp = s.disp := rfl
@[simp] theorem setSt_dt (b : Byte) : (s.setSt b).dt = s.dt := rfl
@[simp] theorem setSt_st (b : Byte) : (s.setSt b).st = b := rfl
@[simp] theorem setSt_acc (b : Byte) : (s.setSt b).acc = s.acc := rfl
@[simp] theorem setSt_clockHz (b : Byte) : (s.setSt b).clockHz = s.clockHz := rfl
@[simp] theorem setSt_timerPhase (b : Byte) : (s.setSt b).timerPhase = s.timerPhase := rfl
@[simp] theorem setSt_frame (b : Byte) : (s.setSt b).frame = s.frame := rfl
@[simp] theorem setSt_inputs (b : Byte) : (s.setSt b).inputs = s.inputs := rfl
@[simp] theorem setSt_inputIndex (b : Byte) : (s.setSt b).inputIndex = s.inputIndex := rfl
@[simp] theorem setSt_getV (b : Byte) (z : RegIx) : (s.setSt b).getV z = s.getV z := rfl
@[simp] theorem setSt_memRead (b : Byte) (z : Nat) : (s.setSt b).memRead z = s.memRead z := rfl
@[simp] theorem setSt_keys (b : Byte) : (s.setSt b).keys = s.keys := rfl
@[simp] theorem setSt_rand (b : Byte) : (s.setSt b).rand = s.rand := rfl

/-! ### `runTimers` -/

@[simp] theorem runTimers_mem : (s.runTimers).mem = s.mem := rfl
@[simp] theorem runTimers_v : (s.runTimers).v = s.v := rfl
@[simp] theorem runTimers_pc : (s.runTimers).pc = s.pc := rfl
@[simp] theorem runTimers_index : (s.runTimers).index = s.index := rfl
@[simp] theorem runTimers_stack : (s.runTimers).stack = s.stack := rfl
@[simp] theorem runTimers_sp : (s.runTimers).sp = s.sp := rfl
@[simp] theorem runTimers_disp : (s.runTimers).disp = s.disp := rfl
@[simp] theorem runTimers_dt : (s.runTimers).dt = if s.ticks then decTimer s.dt else s.dt := rfl
@[simp] theorem runTimers_st : (s.runTimers).st = if s.ticks then decTimer s.st else s.st := rfl
@[simp] theorem runTimers_acc : (s.runTimers).acc = if s.ticks then s.clockHz else s.accLeft := rfl
@[simp] theorem runTimers_clockHz : (s.runTimers).clockHz = s.clockHz := rfl
@[simp] theorem runTimers_timerPhase : (s.runTimers).timerPhase = s.timerPhase := rfl
@[simp] theorem runTimers_frame : (s.runTimers).frame = s.frame := rfl
@[simp] theorem runTimers_inputs : (s.runTimers).inputs = s.inputs := rfl
@[simp] theorem runTimers_inputIndex : (s.runTimers).inputIndex = s.inputIndex := rfl
@[simp] theorem runTimers_getV (z : RegIx) : (s.runTimers).getV z = s.getV z := rfl
@[simp] theorem runTimers_memRead (z : Nat) : (s.runTimers).memRead z = s.memRead z := rfl
@[simp] theorem runTimers_keys : (s.runTimers).keys = s.keys := rfl
@[simp] theorem runTimers_rand : (s.runTimers).rand = s.rand := rfl

/-! ### `nextInputs` -/

@[simp] theorem nextInputs_mem : (s.nextInputs).mem = s.mem := rfl
@[simp] theorem nextInputs_v : (s.nextInputs).v = s.v := rfl
@[simp] theorem nextInputs_pc : (s.nextInputs).pc = s.pc := rfl
@[simp] theorem nextInputs_index : (s.nextInputs).index = s.index := rfl
@[simp] theorem nextInputs_stack : (s.nextInputs).stack = s.stack := rfl
@[simp] theorem nextInputs_sp : (s.nextInputs).sp = s.sp := rfl
@[simp] theorem nextInputs_disp : (s.nextInputs).disp = s.disp := rfl
@[simp] theorem nextInputs_dt : (s.nextInputs).dt = s.dt := rfl
@[simp] theorem nextInputs_st : (s.nextInputs).st = s.st := rfl
@[simp] theorem nextInputs_acc : (s.nextInputs).acc = s.acc := rfl
@[simp] theorem nextInputs_clockHz : (s.nextInputs).clockHz = s.clockHz := rfl
@[simp] theorem nextInputs_timerPhase : (s.nextInputs).timerPhase = s.timerPhase := rfl
@[simp] theorem nextInputs_frame : (s.nextInputs).frame = s.frame := rfl
@[simp] theorem nextInputs_inputs : (s.nextInputs).inputs = s.inputs.tail := rfl
@[simp] theorem nextInputs_inputIndex : (s.nextInputs).inputIndex = s.inputIndex + 1 := rfl
@[simp] theorem nextInputs_getV (z : RegIx) : (s.nextInputs).getV z = s.getV z := rfl
@[simp] theorem nextInputs_memRead (z : Nat) : (s.nextInputs).memRead z = s.memRead z := rfl

/-! ### `timersAt`: the timer phase, or nothing -/

@[simp] theorem timersAt_mem (p : TimerPhase) : (s.timersAt p).mem = s.mem := by
  unfold State.timersAt; split <;> rfl
@[simp] theorem timersAt_v (p : TimerPhase) : (s.timersAt p).v = s.v := by
  unfold State.timersAt; split <;> rfl
@[simp] theorem timersAt_pc (p : TimerPhase) : (s.timersAt p).pc = s.pc := by
  unfold State.timersAt; split <;> rfl
@[simp] theorem timersAt_index (p : TimerPhase) : (s.timersAt p).index = s.index := by
  unfold State.timersAt; split <;> rfl
@[simp] theorem timersAt_stack (p : TimerPhase) : (s.timersAt p).stack = s.stack := by
  unfold State.timersAt; split <;> rfl
@[simp] theorem timersAt_sp (p : TimerPhase) : (s.timersAt p).sp = s.sp := by
  unfold State.timersAt; split <;> rfl
@[simp] theorem timersAt_disp (p : TimerPhase) : (s.timersAt p).disp = s.disp := by
  unfold State.timersAt; split <;> rfl
theorem timersAt_dt (p : TimerPhase) :
    (s.timersAt p).dt = if s.timerPhase = p then s.runTimers.dt else s.dt := by
  unfold State.timersAt; split <;> rfl
theorem timersAt_st (p : TimerPhase) :
    (s.timersAt p).st = if s.timerPhase = p then s.runTimers.st else s.st := by
  unfold State.timersAt; split <;> rfl
theorem timersAt_acc (p : TimerPhase) :
    (s.timersAt p).acc = if s.timerPhase = p then s.runTimers.acc else s.acc := by
  unfold State.timersAt; split <;> rfl
@[simp] theorem timersAt_clockHz (p : TimerPhase) : (s.timersAt p).clockHz = s.clockHz := by
  unfold State.timersAt; split <;> rfl
@[simp] theorem timersAt_timerPhase (p : TimerPhase) : (s.timersAt p).timerPhase = s.timerPhase := by
  unfold State.timersAt; split <;> rfl
@[simp] theorem timersAt_frame (p : TimerPhase) : (s.timersAt p).frame = s.frame := by
  unfold State.timersAt; split <;> rfl
@[simp] theorem timersAt_inputs (p : TimerPhase) : (s.timersAt p).inputs = s.inputs := by
  unfold State.timersAt; split <;> rfl
@[simp] theorem timersAt_inputIndex (p : TimerPhase) : (s.timersAt p).inputIndex = s.inputIndex := by
  unfold State.timersAt; split <;> rfl
@[simp] theorem timersAt_getV (p : TimerPhase) (z : RegIx) : (s.timersAt p).getV z = s.getV z := by
  unfold State.timersAt; split <;> rfl
@[simp] theorem timersAt_memRead (p : TimerPhase) (z : Nat) : (s.timersAt p).memRead z = s.memRead z := by
  unfold State.timersAt; split <;> rfl

/-! ### `beginStep` and `endStep` -/

@[simp] theorem beginStep_mem : s.beginStep.mem = s.mem := timersAt_mem s .beforeFetch
@[simp] theorem beginStep_v : s.beginStep.v = s.v := timersAt_v s .beforeFetch
@[simp] theorem beginStep_pc : s.beginStep.pc = mask12 (s.pc + 2) := rfl
@[simp] theorem beginStep_index : s.beginStep.index = s.index := timersAt_index s .beforeFetch
@[simp] theorem beginStep_stack : s.beginStep.stack = s.stack := timersAt_stack s .beforeFetch
@[simp] theorem beginStep_sp : s.beginStep.sp = s.sp := timersAt_sp s .beforeFetch
@[simp] theorem beginStep_disp : s.beginStep.disp = s.disp := timersAt_disp s .beforeFetch
@[simp] theorem beginStep_dt : s.beginStep.dt = (s.timersAt .beforeFetch).dt := rfl
@[simp] theorem beginStep_st : s.beginStep.st = (s.timersAt .beforeFetch).st := rfl
@[simp] theorem beginStep_acc : s.beginStep.acc = (s.timersAt .beforeFetch).acc := rfl
@[simp] theorem beginStep_clockHz : s.beginStep.clockHz = s.clockHz := timersAt_clockHz s .beforeFetch
@[simp] theorem beginStep_timerPhase : s.beginStep.timerPhase = s.timerPhase := timersAt_timerPhase s .beforeFetch
@[simp] theorem beginStep_frame : s.beginStep.frame = none := rfl
@[simp] theorem beginStep_inputs : s.beginStep.inputs = s.inputs := timersAt_inputs s .beforeFetch
@[simp] theorem beginStep_inputIndex : s.beginStep.inputIndex = s.inputIndex := timersAt_inputIndex s .beforeFetch
@[simp] theorem beginStep_getV (z : RegIx) : s.beginStep.getV z = s.getV z := timersAt_getV s .beforeFetch z
@[simp] theorem beginStep_memRead (z : Nat) : s.beginStep.memRead z = s.memRead z := timersAt_memRead s .beforeFetch z
@[simp] theorem beginStep_keys : s.beginStep.keys = s.keys := by
  simp only [State.keys, beginStep_inputs, beginStep_inputIndex]
@[simp] theorem beginStep_rand : s.beginStep.rand = s.rand := by
  simp only [State.rand, beginStep_inputs, beginStep_inputIndex]
@[simp] theorem endStep_mem : s.endStep.mem = s.mem := by
  simp [State.endStep]
@[simp] theorem endStep_v : s.endStep.v = s.v := by
  simp [State.endStep]
@[simp] theorem endStep_pc : s.endStep.pc = s.pc := by
  simp [State.endStep]
@[simp] theorem endStep_index : s.endStep.index = s.index := by
  simp [State.endStep]
@[simp] theorem endStep_stack : s.endStep.stack = s.stack := by
  simp [State.endStep]
@[simp] theorem endStep_sp : s.endStep.sp = s.sp := by
  simp [State.endStep]
@[simp] theorem endStep_disp : s.endStep.disp = s.disp := by
  simp [State.endStep]
@[simp] theorem endStep_dt : s.endStep.dt = (s.timersAt .afterExecute).dt := rfl
@[simp] theorem endStep_st : s.endStep.st = (s.timersAt .afterExecute).st := rfl
@[simp] theorem endStep_acc : s.endStep.acc = (s.timersAt .afterExecute).acc := rfl
@[simp] theorem endStep_clockHz : s.endStep.clockHz = s.clockHz := by
  simp [State.endStep]
@[simp] theorem endStep_timerPhase : s.endStep.timerPhase = s.timerPhase := by
  simp [State.endStep]
@[simp] theorem endStep_frame : s.endStep.frame = s.frame := by
  simp [State.endStep]
@[simp] theorem endStep_inputs : s.endStep.inputs = s.inputs.tail := by
  simp [State.endStep]
@[simp] theorem endStep_inputIndex : s.endStep.inputIndex = s.inputIndex + 1 := by
  simp [State.endStep]
@[simp] theorem endStep_getV (z : RegIx) : s.endStep.getV z = s.getV z := timersAt_getV s .afterExecute z
@[simp] theorem endStep_memRead (z : Nat) : s.endStep.memRead z = s.memRead z := timersAt_memRead s .afterExecute z

end Sys2Proof.Machine
end

