-- ==== Sys2Proof/Laws/Ops.lean ====
section
/-! SUPPORT. Laws/Ops.lean: one lemma per shared operation that says everything it can do, to be cited instead of unfolding it. -/

namespace Sys2Proof.Machine

/-! ### The 12-bit mask -/

/-- Masking is reduction mod 4096. -/
theorem mask12_toNat (a : Word) : (mask12 a).toNat = a.toNat % 4096 := by
  have h : (0xFFF : Word).toNat = 2 ^ 12 - 1 := rfl
  rw [mask12, BitVec.toNat_and, h, Nat.and_two_pow_sub_one_eq_mod]

/-- Masking as a number made a word again. -/
theorem mask12_eq_ofNat (a : Word) : mask12 a = BitVec.ofNat 16 (a.toNat % 4096) := by
  apply BitVec.eq_of_toNat_eq; rw [mask12_toNat, BitVec.toNat_ofNat]; omega

/-- The fetch advance and the skip as numbers. -/
theorem mask12_add_two (a : Word) : mask12 (a + 2) = BitVec.ofNat 16 ((a.toNat + 2) % 4096) := by
  have h : (a + 2).toNat = (a.toNat + 2) % 65536 := by simp [BitVec.toNat_add]
  rw [mask12_eq_ofNat, h]; exact congrArg (BitVec.ofNat 16) (by omega)

/-- The rewind as a number. -/
theorem mask12_sub_two (a : Word) : mask12 (a - 2) = BitVec.ofNat 16 ((a.toNat + 4094) % 4096) := by
  have h : (a - 2).toNat = (65536 - 2 + a.toNat) % 65536 := by simp [BitVec.toNat_sub]
  rw [mask12_eq_ofNat, h]; exact congrArg (BitVec.ofNat 16) (by omega)

/-- A masked value is a 12-bit value. -/
theorem mask12_lt (a : Word) : (mask12 a).toNat < 4096 := by
  rw [mask12_toNat]; exact Nat.mod_lt _ (by decide)

/-- A 12-bit value is its own mask. -/
theorem mask12_of_lt {a : Word} (h : a.toNat < 4096) : mask12 a = a :=
  BitVec.eq_of_toNat_eq (by rw [mask12_toNat, Nat.mod_eq_of_lt h])

/-! ### Registers -/

/-- A register read after a register write. -/
theorem getV_setV (s : State) (x z : RegIx) (b : Byte) :
    (s.setV x b).getV z = if z = x then b else s.getV z := by
  simp only [State.setV, State.getV, Vector.getElem_set, BitVec.toNat_inj]
  by_cases h : z = x
  · simp [h]
  · simp [h, Ne.symm h]

/-- The register written reads as the value written. -/
@[simp] theorem getV_setV_same (s : State) (x : RegIx) (b : Byte) : (s.setV x b).getV x = b := by
  simp [getV_setV]

/-- Another register reads as before. -/
theorem getV_setV_other (s : State) {x z : RegIx} (b : Byte) (h : z ≠ x) : (s.setV x b).getV z = s.getV z := by
  simp [getV_setV, h]

/-- A register read after the flag is written. -/
theorem getV_setFlag (s : State) (z : RegIx) (c : Bool) :
    (s.setFlag c).getV z = if z = vf then flagByte c else s.getV z :=
  getV_setV s vf z (flagByte c)

/-! ### Memory -/

/-- A byte read after a byte write: the two addresses are compared mod 4096. -/
theorem memRead_memWrite {s : State} (h : Memory.wf s.mem) (a c : Nat) (b : Byte) :
    (s.memWrite a b).memRead c = if c % 4096 = a % 4096 then b else s.memRead c :=
  read_write h.1 (a % memSize) (c % memSize) b

/-- A byte write keeps the canonical form. -/
theorem memWrite_wf {s : State} (h : Memory.wf s.mem) (a : Nat) (b : Byte) : Memory.wf (s.memWrite a b).mem :=
  write_wf b (Nat.mod_lt _ (by decide)) h

/-! ### Register blocks -/

/-- `storeRegs` writes memory and nothing else. -/
theorem storeRegs_eq (s : State) (count : Nat) : s.storeRegs count = { s with mem := (s.storeRegs count).mem } := by
  induction count with
  | zero => rfl
  | succ k ih => rw [State.storeRegs, ih]; rfl

@[simp] theorem storeRegs_v (s : State) (count : Nat) : (s.storeRegs count).v = s.v := by
  rw [storeRegs_eq]
@[simp] theorem storeRegs_pc (s : State) (count : Nat) : (s.storeRegs count).pc = s.pc := by
  rw [storeRegs_eq]
@[simp] theorem storeRegs_index (s : State) (count : Nat) : (s.storeRegs count).index = s.index := by
  rw [storeRegs_eq]
@[simp] theorem storeRegs_stack (s : State) (count : Nat) : (s.storeRegs count).stack = s.stack := by
  rw [storeRegs_eq]
@[simp] theorem storeRegs_sp (s : State) (count : Nat) : (s.storeRegs count).sp = s.sp := by
  rw [storeRegs_eq]
@[simp] theorem storeRegs_disp (s : State) (count : Nat) : (s.storeRegs count).disp = s.disp := by
  rw [storeRegs_eq]
@[simp] theorem storeRegs_dt (s : State) (count : Nat) : (s.storeRegs count).dt = s.dt := by
  rw [storeRegs_eq]
@[simp] theorem storeRegs_st (s : State) (count : Nat) : (s.storeRegs count).st = s.st := by
  rw [storeRegs_eq]
@[simp] theorem storeRegs_acc (s : State) (count : Nat) : (s.storeRegs count).acc = s.acc := by
  rw [storeRegs_eq]
@[simp] theorem storeRegs_clockHz (s : State) (count : Nat) : (s.storeRegs count).clockHz = s.clockHz := by
  rw [storeRegs_eq]
@[simp] theorem storeRegs_timerPhase (s : State) (count : Nat) : (s.storeRegs count).timerPhase = s.timerPhase := by
  rw [storeRegs_eq]
@[simp] theorem storeRegs_frame (s : State) (count : Nat) : (s.storeRegs count).frame = s.frame := by
  rw [storeRegs_eq]
@[simp] theorem storeRegs_inputs (s : State) (count : Nat) : (s.storeRegs count).inputs = s.inputs := by
  rw [storeRegs_eq]
@[simp] theorem storeRegs_inputIndex (s : State) (count : Nat) : (s.storeRegs count).inputIndex = s.inputIndex := by
  rw [storeRegs_eq]
@[simp] theorem storeRegs_getV (s : State) (count : Nat) (z : RegIx) : (s.storeRegs count).getV z = s.getV z := by
  rw [storeRegs_eq]; rfl

/-- `storeRegs` keeps the canonical form. -/
theorem storeRegs_wf {s : State} (h : Memory.wf s.mem) (count : Nat) : Memory.wf (s.storeRegs count).mem := by
  induction count with
  | zero => exact h
  | succ k ih => exact memWrite_wf ih _ _

/-- An address reads as `I + k` for a small k exactly when it lies k above `I`. -/
theorem mod_eq_index_add_iff (s : State) (a k : Nat) (hk : k < 4096) :
    a % 4096 = (s.index.toNat + k) % 4096 ↔ s.aboveIndex a = k := by
  unfold State.aboveIndex; omega

/-- A byte read after `storeRegs`: the bytes from `I` hold the registers, every other byte is as before. -/
theorem memRead_storeRegs {s : State} (h : Memory.wf s.mem) (count : Nat) (hc : count ≤ 16) (a : Nat) :
    (s.storeRegs count).memRead a
      = if s.aboveIndex a < count then s.getV (BitVec.ofNat 4 (s.aboveIndex a)) else s.memRead a := by
  induction count with
  | zero => simp [State.storeRegs]
  | succ k ih =>
    rw [State.storeRegs, memRead_memWrite (storeRegs_wf h k), ih (by omega)]
    have hm := mod_eq_index_add_iff s a k (by omega)
    by_cases hk : s.aboveIndex a = k
    · rw [if_pos (hm.mpr hk), if_pos (by omega), hk]
    · rw [if_neg (fun he => hk (hm.mp he))]
      by_cases hlt : s.aboveIndex a < k
      · rw [if_pos hlt, if_pos (by omega)]
      · rw [if_neg hlt, if_neg (by omega)]

/-- `loadRegs` writes the registers and nothing else. -/
theorem loadRegs_eq (s : State) (count : Nat) : s.loadRegs count = { s with v := (s.loadRegs count).v } := by
  induction count with
  | zero => rfl
  | succ k ih => rw [State.loadRegs, ih]; rfl

@[simp] theorem loadRegs_mem (s : State) (count : Nat) : (s.loadRegs count).mem = s.mem := by
  rw [loadRegs_eq]
@[simp] theorem loadRegs_pc (s : State) (count : Nat) : (s.loadRegs count).pc = s.pc := by
  rw [loadRegs_eq]
@[simp] theorem loadRegs_index (s : State) (count : Nat) : (s.loadRegs count).index = s.index := by
  rw [loadRegs_eq]
@[simp] theorem loadRegs_stack (s : State) (count : Nat) : (s.loadRegs count).stack = s.stack := by
  rw [loadRegs_eq]
@[simp] theorem loadRegs_sp (s : State) (count : Nat) : (s.loadRegs count).sp = s.sp := by
  rw [loadRegs_eq]
@[simp] theorem loadRegs_disp (s : State) (count : Nat) : (s.loadRegs count).disp = s.disp := by
  rw [loadRegs_eq]
@[simp] theorem loadRegs_dt (s : State) (count : Nat) : (s.loadRegs count).dt = s.dt := by
  rw [loadRegs_eq]
@[simp] theorem loadRegs_st (s : State) (count : Nat) : (s.loadRegs count).st = s.st := by
  rw [loadRegs_eq]
@[simp] theorem loadRegs_acc (s : State) (count : Nat) : (s.loadRegs count).acc = s.acc := by
  rw [loadRegs_eq]
@[simp] theorem loadRegs_clockHz (s : State) (count : Nat) : (s.loadRegs count).clockHz = s.clockHz := by
  rw [loadRegs_eq]
@[simp] theorem loadRegs_timerPhase (s : State) (count : Nat) : (s.loadRegs count).timerPhase = s.timerPhase := by
  rw [loadRegs_eq]
@[simp] theorem loadRegs_frame (s : State) (count : Nat) : (s.loadRegs count).frame = s.frame := by
  rw [loadRegs_eq]
@[simp] theorem loadRegs_inputs (s : State) (count : Nat) : (s.loadRegs count).inputs = s.inputs := by
  rw [loadRegs_eq]
@[simp] theorem loadRegs_inputIndex (s : State) (count : Nat) : (s.loadRegs count).inputIndex = s.inputIndex := by
  rw [loadRegs_eq]
@[simp] theorem loadRegs_memRead (s : State) (count z : Nat) : (s.loadRegs count).memRead z = s.memRead z := by
  rw [loadRegs_eq]; rfl

/-- A register after `loadRegs`: the first `count` hold the bytes from `I`, the others are as before. -/
theorem getV_loadRegs (s : State) (count : Nat) (hc : count ≤ 16) (z : RegIx) :
    (s.loadRegs count).getV z = if z.toNat < count then s.memRead (s.index.toNat + z.toNat) else s.getV z := by
  induction count with
  | zero => simp [State.loadRegs]
  | succ k ih =>
    rw [State.loadRegs, getV_setV, ih (by omega)]
    have hz : z = BitVec.ofNat 4 k ↔ z.toNat = k := by
      rw [← BitVec.toNat_inj, BitVec.toNat_ofNat, Nat.mod_eq_of_lt (by omega)]
    by_cases hk : z.toNat = k
    · rw [if_pos (hz.mpr hk), if_pos (by omega), hk]
    · rw [if_neg (fun he => hk (hz.mp he))]
      by_cases hlt : z.toNat < k
      · rw [if_pos hlt, if_pos (by omega)]
      · rw [if_neg hlt, if_neg (by omega)]

/-! ### Loading bytes -/

/-- `loadBytes` writes memory and nothing else. -/
theorem loadBytes_eq (s : State) (a : Nat) (bs : List Byte) :
    s.loadBytes a bs = { s with mem := (s.loadBytes a bs).mem } := by
  induction bs generalizing s a with
  | nil => rfl
  | cons b bs ih => rw [State.loadBytes, ih]; rfl

@[simp] theorem loadBytes_v (s : State) (a : Nat) (bs : List Byte) : (s.loadBytes a bs).v = s.v := by
  rw [loadBytes_eq]
@[simp] theorem loadBytes_pc (s : State) (a : Nat) (bs : List Byte) : (s.loadBytes a bs).pc = s.pc := by
  rw [loadBytes_eq]
@[simp] theorem loadBytes_index (s : State) (a : Nat) (bs : List Byte) : (s.loadBytes a bs).index = s.index := by
  rw [loadBytes_eq]
@[simp] theorem loadBytes_stack (s : State) (a : Nat) (bs : List Byte) : (s.loadBytes a bs).stack = s.stack := by
  rw [loadBytes_eq]
@[simp] theorem loadBytes_sp (s : State) (a : Nat) (bs : List Byte) : (s.loadBytes a bs).sp = s.sp := by
  rw [loadBytes_eq]
@[simp] theorem loadBytes_disp (s : State) (a : Nat) (bs : List Byte) : (s.loadBytes a bs).disp = s.disp := by
  rw [loadBytes_eq]
@[simp] theorem loadBytes_dt (s : State) (a : Nat) (bs : List Byte) : (s.loadBytes a bs).dt = s.dt := by
  rw [loadBytes_eq]
@[simp] theorem loadBytes_st (s : State) (a : Nat) (bs : List Byte) : (s.loadBytes a bs).st = s.st := by
  rw [loadBytes_eq]
@[simp] theorem loadBytes_acc (s : State) (a : Nat) (bs : List Byte) : (s.loadBytes a bs).acc = s.acc := by
  rw [loadBytes_eq]
@[simp] theorem loadBytes_clockHz (s : State) (a : Nat) (bs : List Byte) : (s.loadBytes a bs).clockHz = s.clockHz := by
  rw [loadBytes_eq]
@[simp] theorem loadBytes_timerPhase (s : State) (a : Nat) (bs : List Byte) : (s.loadBytes a bs).timerPhase = s.timerPhase := by
  rw [loadBytes_eq]
@[simp] theorem loadBytes_frame (s : State) (a : Nat) (bs : List Byte) : (s.loadBytes a bs).frame = s.frame := by
  rw [loadBytes_eq]
@[simp] theorem loadBytes_inputs (s : State) (a : Nat) (bs : List Byte) : (s.loadBytes a bs).inputs = s.inputs := by
  rw [loadBytes_eq]
@[simp] theorem loadBytes_inputIndex (s : State) (a : Nat) (bs : List Byte) : (s.loadBytes a bs).inputIndex = s.inputIndex := by
  rw [loadBytes_eq]
@[simp] theorem loadBytes_getV (s : State) (a : Nat) (bs : List Byte) (z : RegIx) : (s.loadBytes a bs).getV z = s.getV z := by
  rw [loadBytes_eq]; rfl

/-- `loadBytes` keeps the canonical form. -/
theorem loadBytes_wf {s : State} (h : Memory.wf s.mem) (a : Nat) (bs : List Byte) :
    Memory.wf (s.loadBytes a bs).mem := by
  induction bs generalizing s a with
  | nil => exact h
  | cons b bs ih => exact ih (memWrite_wf h a b) (a + 1)

/-- A byte read after `loadBytes` of bytes that end inside memory. -/
theorem memRead_loadBytes {s : State} (h : Memory.wf s.mem) (a : Nat) (bs : List Byte) (hb : a + bs.length ≤ 4096)
    (c : Nat) (hc : c < 4096) :
    (s.loadBytes a bs).memRead c = if a ≤ c ∧ c < a + bs.length then bs.getD (c - a) 0 else s.memRead c := by
  induction bs generalizing s a with
  | nil => rw [if_neg (by simp)]; rfl
  | cons b bs ih =>
    simp only [List.length_cons] at hb ⊢
    rw [State.loadBytes, ih (memWrite_wf h a b) (a + 1) (by omega), memRead_memWrite h, Nat.mod_eq_of_lt hc,
      Nat.mod_eq_of_lt (show a < 4096 by omega)]
    by_cases h1 : c = a
    · rw [if_neg (by omega), if_pos h1, if_pos (by omega), h1]; simp
    · by_cases h2 : a + 1 ≤ c ∧ c < a + 1 + bs.length
      · rw [if_pos h2, if_pos (by omega), show c - a = (c - (a + 1)) + 1 by omega, List.getD_cons_succ]
      · rw [if_neg h2, if_neg h1, if_neg (by omega)]

/-! ### Keys -/

/-- No key is least exactly when none is pressed. -/
theorem leastPressed_eq_none_iff (keys : BitVec 16) : leastPressed keys = none ↔ keys = 0 := by
  simp only [leastPressed, Option.map_eq_none_iff, List.find?_eq_none, List.mem_range]
  constructor
  · intro h
    apply BitVec.eq_of_getLsbD_eq
    intro k hk
    simpa using h k hk
  · rintro rfl k _
    simp

/-- The least pressed key: it is pressed, it is one of the 16, and no key below it is pressed. -/
theorem leastPressed_eq_some {keys : BitVec 16} {b : Byte} (h : leastPressed keys = some b) :
    b.toNat < 16 ∧ keys.getLsbD b.toNat = true ∧ ∀ j < b.toNat, keys.getLsbD j = false := by
  simp only [leastPressed, Option.map_eq_some_iff] at h
  obtain ⟨k, hk, rfl⟩ := h
  obtain ⟨hp, hlt⟩ := List.find?_range_eq_some.mp hk |>.imp id (fun h => h.1)
  have h16 : k < 16 := by simpa using hlt
  have ht : (BitVec.ofNat 8 k).toNat = k := by rw [BitVec.toNat_ofNat, Nat.mod_eq_of_lt (by omega)]
  rw [ht]
  refine ⟨h16, hp, fun j hj => ?_⟩
  have := (List.find?_range_eq_some.mp hk).2.2 j hj
  simpa using this

/-! ### Timers -/

/-- What is left of the period, as natural subtraction. -/
theorem accLeft_eq (s : State) : s.accLeft = s.acc - 60 := by
  unfold State.accLeft stepUnits; omega

/-- A timer phase is a tick exactly when at most one step duration was left. -/
theorem ticks_iff (s : State) : s.ticks = true ↔ s.acc ≤ 60 := by
  simp only [State.ticks, accLeft_eq, beq_iff_eq]; omega

/-- A decremented timer, as a number: natural subtraction saturates at 0. -/
theorem decTimer_toNat (t : Byte) : (decTimer t).toNat = t.toNat - 1 := by
  unfold decTimer
  split
  · next h => simp [h]
  · next h =>
    have hne : t.toNat ≠ 0 := fun h0 => h (BitVec.eq_of_toNat_eq (by simpa using h0))
    rw [BitVec.toNat_sub_of_le]
    · rfl
    · rw [BitVec.le_def]; change 1 ≤ t.toNat; omega

/-- The timer phase keeps `1 <= ACC <= CLOCK_HZ`. -/
theorem runTimers_acc_bounds {s : State} (h1 : 1 ≤ s.acc) (h2 : s.acc ≤ s.clockHz) :
    1 ≤ s.runTimers.acc ∧ s.runTimers.acc ≤ s.clockHz := by
  rw [runTimers_acc]
  split
  · omega
  · next hn =>
    have := mt (ticks_iff s).mpr (by simpa using hn)
    rw [accLeft_eq]; omega

/-- The timer phase where `TIMER_PHASE` puts it keeps `1 <= ACC <= CLOCK_HZ`. -/
theorem timersAt_acc_bounds {s : State} (p : TimerPhase) (h1 : 1 ≤ s.acc) (h2 : s.acc ≤ s.clockHz) :
    1 ≤ (s.timersAt p).acc ∧ (s.timersAt p).acc ≤ s.clockHz := by
  rw [timersAt_acc]
  split
  · exact runTimers_acc_bounds h1 h2
  · exact ⟨h1, h2⟩

end Sys2Proof.Machine
end

