-- ==== Sys2Proof/Laws/PerInstr.lean ====
section
/-! SUPPORT. Laws/PerInstr.lean: one lemma per instruction: its word carries the fixed bits of its row of spec/opcode_table.json
(30_encoding.md R75). -/

namespace Sys2Proof.Laws.TableMatch

/-- The mask of the instruction's row: 1 at every bit the row fixes. -/
def mask : Instr → Word
  | .cls => 0xFFFF
  | .ret => 0xFFFF
  | .sys _ => 0xF000
  | .jp _ => 0xF000
  | .call _ => 0xF000
  | .seImm _ _ => 0xF000
  | .sneImm _ _ => 0xF000
  | .seReg _ _ => 0xF00F
  | .sneReg _ _ => 0xF00F
  | .ldImm _ _ => 0xF000
  | .addImm _ _ => 0xF000
  | .ldReg _ _ => 0xF00F
  | .orReg _ _ => 0xF00F
  | .andReg _ _ => 0xF00F
  | .xorReg _ _ => 0xF00F
  | .addReg _ _ => 0xF00F
  | .sub _ _ => 0xF00F
  | .shr _ => 0xF00F
  | .subn _ _ => 0xF00F
  | .shl _ => 0xF00F
  | .ldI _ => 0xF000
  | .jpV0 _ => 0xF000
  | .rnd _ _ => 0xF000
  | .drw _ _ _ => 0xF000
  | .skp _ => 0xF0FF
  | .sknp _ => 0xF0FF
  | .ldVxDt _ => 0xF0FF
  | .ldVxK _ => 0xF0FF
  | .ldDtVx _ => 0xF0FF
  | .ldStVx _ => 0xF0FF
  | .addI _ => 0xF0FF
  | .ldF _ => 0xF0FF
  | .ldB _ => 0xF0FF
  | .stRegs _ => 0xF0FF
  | .ldRegs _ => 0xF0FF

/-- The fixed bits of the instruction's row. -/
def fixedBits : Instr → Word
  | .cls => 0x00E0
  | .ret => 0x00EE
  | .sys _ => 0x0000
  | .jp _ => 0x1000
  | .call _ => 0x2000
  | .seImm _ _ => 0x3000
  | .sneImm _ _ => 0x4000
  | .seReg _ _ => 0x5000
  | .sneReg _ _ => 0x9000
  | .ldImm _ _ => 0x6000
  | .addImm _ _ => 0x7000
  | .ldReg _ _ => 0x8000
  | .orReg _ _ => 0x8001
  | .andReg _ _ => 0x8002
  | .xorReg _ _ => 0x8003
  | .addReg _ _ => 0x8004
  | .sub _ _ => 0x8005
  | .shr _ => 0x8006
  | .subn _ _ => 0x8007
  | .shl _ => 0x800E
  | .ldI _ => 0xA000
  | .jpV0 _ => 0xB000
  | .rnd _ _ => 0xC000
  | .drw _ _ _ => 0xD000
  | .skp _ => 0xE09E
  | .sknp _ => 0xE0A1
  | .ldVxDt _ => 0xF007
  | .ldVxK _ => 0xF00A
  | .ldDtVx _ => 0xF015
  | .ldStVx _ => 0xF018
  | .addI _ => 0xF01E
  | .ldF _ => 0xF029
  | .ldB _ => 0xF033
  | .stRegs _ => 0xF055
  | .ldRegs _ => 0xF065

/-- The instruction's word selects its row of the table. -/
def Statement (i : Instr) : Prop := encode i &&& mask i = fixedBits i

/-! ### The formats under the masks -/

theorem formatA_family (n3 : BitVec 4) (nnn : Addr) : formatA n3 nnn &&& 0xF000 = n3 ++ (0 : BitVec 12) := by
  refine BitVec.eq_of_getLsbD_eq fun i hi => ?_
  simp only [formatA, BitVec.getLsbD_and, BitVec.getLsbD_append]
  interval_cases i <;> simp

theorem formatXK_family (n3 : BitVec 4) (x : RegIx) (kk : Byte) :
    formatXK n3 x kk &&& 0xF000 = n3 ++ (0 : BitVec 12) := by
  refine BitVec.eq_of_getLsbD_eq fun i hi => ?_
  simp only [formatXK, BitVec.getLsbD_and, BitVec.getLsbD_append]
  interval_cases i <;> simp

theorem formatXK_sub (n3 : BitVec 4) (x : RegIx) (kk : Byte) :
    formatXK n3 x kk &&& 0xF0FF = n3 ++ (0 : BitVec 4) ++ kk := by
  refine BitVec.eq_of_getLsbD_eq fun i hi => ?_
  simp only [formatXK, BitVec.getLsbD_and, BitVec.getLsbD_append]
  interval_cases i <;> simp

theorem formatXYN_family (n3 : BitVec 4) (x y : RegIx) (n : Count) :
    formatXYN n3 x y n &&& 0xF000 = n3 ++ (0 : BitVec 12) := by
  refine BitVec.eq_of_getLsbD_eq fun i hi => ?_
  simp only [formatXYN, BitVec.getLsbD_and, BitVec.getLsbD_append]
  interval_cases i <;> simp

theorem formatXYN_sub (n3 : BitVec 4) (x y : RegIx) (n : Count) :
    formatXYN n3 x y n &&& 0xF00F = n3 ++ (0 : BitVec 8) ++ n := by
  refine BitVec.eq_of_getLsbD_eq fun i hi => ?_
  simp only [formatXYN, BitVec.getLsbD_and, BitVec.getLsbD_append]
  interval_cases i <;> simp

/-! ### The instructions -/

theorem cls : Statement .cls := rfl
theorem ret : Statement .ret := rfl
theorem sys (nnn : Addr) : Statement (.sys nnn) := formatA_family 0x0 nnn
theorem jp (nnn : Addr) : Statement (.jp nnn) := formatA_family 0x1 nnn
theorem call (nnn : Addr) : Statement (.call nnn) := formatA_family 0x2 nnn
theorem seImm (x : RegIx) (kk : Byte) : Statement (.seImm x kk) := formatXK_family 0x3 x kk
theorem sneImm (x : RegIx) (kk : Byte) : Statement (.sneImm x kk) := formatXK_family 0x4 x kk
theorem seReg (x : RegIx) (y : RegIx) : Statement (.seReg x y) := formatXYN_sub 0x5 x y 0x0
theorem sneReg (x : RegIx) (y : RegIx) : Statement (.sneReg x y) := formatXYN_sub 0x9 x y 0x0
theorem ldImm (x : RegIx) (kk : Byte) : Statement (.ldImm x kk) := formatXK_family 0x6 x kk
theorem addImm (x : RegIx) (kk : Byte) : Statement (.addImm x kk) := formatXK_family 0x7 x kk
theorem ldReg (x : RegIx) (y : RegIx) : Statement (.ldReg x y) := formatXYN_sub 0x8 x y 0x0
theorem orReg (x : RegIx) (y : RegIx) : Statement (.orReg x y) := formatXYN_sub 0x8 x y 0x1
theorem andReg (x : RegIx) (y : RegIx) : Statement (.andReg x y) := formatXYN_sub 0x8 x y 0x2
theorem xorReg (x : RegIx) (y : RegIx) : Statement (.xorReg x y) := formatXYN_sub 0x8 x y 0x3
theorem addReg (x : RegIx) (y : RegIx) : Statement (.addReg x y) := formatXYN_sub 0x8 x y 0x4
theorem sub (x : RegIx) (y : RegIx) : Statement (.sub x y) := formatXYN_sub 0x8 x y 0x5
theorem shr (x : RegIx) : Statement (.shr x) := formatXYN_sub 0x8 x 0x0 0x6
theorem subn (x : RegIx) (y : RegIx) : Statement (.subn x y) := formatXYN_sub 0x8 x y 0x7
theorem shl (x : RegIx) : Statement (.shl x) := formatXYN_sub 0x8 x 0x0 0xE
theorem ldI (nnn : Addr) : Statement (.ldI nnn) := formatA_family 0xA nnn
theorem jpV0 (nnn : Addr) : Statement (.jpV0 nnn) := formatA_family 0xB nnn
theorem rnd (x : RegIx) (kk : Byte) : Statement (.rnd x kk) := formatXK_family 0xC x kk
theorem drw (x : RegIx) (y : RegIx) (n : Count) : Statement (.drw x y n) := formatXYN_family 0xD x y n
theorem skp (x : RegIx) : Statement (.skp x) := formatXK_sub 0xE x 0x9E
theorem sknp (x : RegIx) : Statement (.sknp x) := formatXK_sub 0xE x 0xA1
theorem ldVxDt (x : RegIx) : Statement (.ldVxDt x) := formatXK_sub 0xF x 0x07
theorem ldVxK (x : RegIx) : Statement (.ldVxK x) := formatXK_sub 0xF x 0x0A
theorem ldDtVx (x : RegIx) : Statement (.ldDtVx x) := formatXK_sub 0xF x 0x15
theorem ldStVx (x : RegIx) : Statement (.ldStVx x) := formatXK_sub 0xF x 0x18
theorem addI (x : RegIx) : Statement (.addI x) := formatXK_sub 0xF x 0x1E
theorem ldF (x : RegIx) : Statement (.ldF x) := formatXK_sub 0xF x 0x29
theorem ldB (x : RegIx) : Statement (.ldB x) := formatXK_sub 0xF x 0x33
theorem stRegs (x : RegIx) : Statement (.stRegs x) := formatXK_sub 0xF x 0x55
theorem ldRegs (x : RegIx) : Statement (.ldRegs x) := formatXK_sub 0xF x 0x65

end Sys2Proof.Laws.TableMatch
end

