-- ==== Sys2Proof/Laws/Sprite.lean ====
section
/-! SUPPORT. Laws/Sprite.lean: what the sprite engine does to every cell, and when it reports a collision. -/

namespace Sys2Proof.Machine

/-- Off the display every cell reads as unset. -/
theorem cell_off {d : Display} {px py : Nat} (h : ¬(px < 64 ∧ py < 32)) : Display.cell d px py = false := by
  simp only [Display.cell, dif_neg h]

/-- A blank display has no set cell. -/
@[simp] theorem cell_blank (px py : Nat) : Display.cell Display.blank px py = false := by
  unfold Display.cell
  split <;> simp [Display.blank]

/-- Two displays with the same cells are the same display. -/
theorem display_ext {d e : Display}
    (h : ∀ px py, px < 64 → py < 32 → Display.cell d px py = Display.cell e px py) : d = e := by
  refine Vector.ext fun py hy => Vector.ext fun px hx => ?_
  simpa [Display.cell, hx, hy] using h px py hx hy

/-- A toggle inverts its own cell and no other. -/
theorem cell_toggle (d : Display) (px py qx qy : Nat) :
    Display.cell (Display.toggle d px py) qx qy
      = if qx = px ∧ qy = py ∧ px < 64 ∧ py < 32 then !Display.cell d px py else Display.cell d qx qy := by
  by_cases h : px < 64 ∧ py < 32
  · by_cases hq : qx < 64 ∧ qy < 32
    · simp only [Display.toggle, dif_pos h, Display.cell, dif_pos hq, Vector.getElem_set]
      by_cases hy : py = qy
      · subst hy
        by_cases hx : px = qx
        · subst hx; simp [h]
        · simp [hx, Ne.symm hx]
      · simp [hy, Ne.symm hy]
    · rw [cell_off hq, cell_off hq, if_neg (fun hc => hq ⟨by omega, by omega⟩)]
  · rw [Display.toggle, dif_neg h, if_neg (fun hc => h hc.2.2)]

/-- A drawn bit flips its cell if it is 1 and on the display. -/
theorem cell_drawBit (px py : Nat) (bit : Bool) (g : Drawing) (qx qy : Nat) :
    Display.cell (drawBit px py bit g).1 qx qy
      = (Display.cell g.1 qx qy ^^ (decide (qx = px ∧ qy = py ∧ px ≤ 63 ∧ py ≤ 31) && bit)) := by
  unfold drawBit
  split
  · next h =>
    rw [cell_toggle]
    by_cases hq : qx = px ∧ qy = py
    · obtain ⟨rfl, rfl⟩ := hq
      rw [if_pos (by omega)]; simp [h]
    · rw [if_neg (fun hc => hq ⟨hc.1, hc.2.1⟩)]
      have : decide (qx = px ∧ qy = py ∧ px ≤ 63 ∧ py ≤ 31) = false :=
        decide_eq_false (fun hc => hq ⟨hc.1, hc.2.1⟩)
      rw [this]; simp
  · next h =>
    cases bit
    · simp
    · have : decide (qx = px ∧ qy = py ∧ px ≤ 63 ∧ py ≤ 31) = false :=
        decide_eq_false (fun hc => h ⟨hc.2.2.1, hc.2.2.2, rfl⟩)
      rw [this]; simp

/-- A drawn bit reports a collision if it is 1, on the display, and its cell was set. -/
theorem hit_drawBit (px py : Nat) (bit : Bool) (g : Drawing) :
    (drawBit px py bit g).2 = (g.2 || (bit && Display.cell g.1 px py)) := by
  unfold drawBit
  split
  · next h => simp [h]
  · next h =>
    cases bit
    · simp
    · rw [cell_off (fun hc => h ⟨by omega, by omega, rfl⟩)]; simp

/-- The first m bits of a row flip the cells they reach. -/
theorem cell_drawRow_aux (ox py : Nat) (row : Byte) (g : Drawing) (m : Nat) (qx qy : Nat) :
    Display.cell ((List.range m).foldl (fun g c => drawBit (ox + c) py (row.getLsbD (7 - c)) g) g).1 qx qy
      = (Display.cell g.1 qx qy ^^
          (decide (ox ≤ qx ∧ qx < ox + m ∧ qy = py ∧ qx ≤ 63 ∧ py ≤ 31) && row.getLsbD (7 - (qx - ox)))) := by
  induction m with
  | zero =>
    have : decide (ox ≤ qx ∧ qx < ox + 0 ∧ qy = py ∧ qx ≤ 63 ∧ py ≤ 31) = false := decide_eq_false (by omega)
    rw [this]; simp
  | succ m ih =>
    rw [List.range_succ, List.foldl_append, List.foldl_cons, List.foldl_nil, cell_drawBit, ih]
    by_cases hq : qx = ox + m
    · subst hq
      have h1 : decide (ox ≤ ox + m ∧ ox + m < ox + m ∧ qy = py ∧ ox + m ≤ 63 ∧ py ≤ 31) = false :=
        decide_eq_false (by omega)
      have h2 : decide (ox ≤ ox + m ∧ ox + m < ox + (m + 1) ∧ qy = py ∧ ox + m ≤ 63 ∧ py ≤ 31)
          = decide (ox + m = ox + m ∧ qy = py ∧ ox + m ≤ 63 ∧ py ≤ 31) := decide_eq_decide.mpr (by omega)
      rw [h1, h2, Nat.add_sub_cancel_left]; simp
    · have h1 : decide (qx = ox + m ∧ qy = py ∧ ox + m ≤ 63 ∧ py ≤ 31) = false := decide_eq_false (by omega)
      have h2 : decide (ox ≤ qx ∧ qx < ox + (m + 1) ∧ qy = py ∧ qx ≤ 63 ∧ py ≤ 31)
          = decide (ox ≤ qx ∧ qx < ox + m ∧ qy = py ∧ qx ≤ 63 ∧ py ≤ 31) := decide_eq_decide.mpr (by omega)
      rw [h1, h2]; simp

/-- The first m bits of a row report a collision if one of them clears a cell that was set before the row. -/
theorem hit_drawRow_aux (ox py : Nat) (row : Byte) (g : Drawing) (m : Nat) :
    ((List.range m).foldl (fun g c => drawBit (ox + c) py (row.getLsbD (7 - c)) g) g).2 = true
      ↔ g.2 = true ∨ ∃ c < m, row.getLsbD (7 - c) = true ∧ Display.cell g.1 (ox + c) py = true := by
  induction m with
  | zero => simp
  | succ m ih =>
    rw [List.range_succ, List.foldl_append, List.foldl_cons, List.foldl_nil, hit_drawBit, Bool.or_eq_true, ih,
      Bool.and_eq_true, cell_drawRow_aux]
    have h1 : decide (ox ≤ ox + m ∧ ox + m < ox + m ∧ py = py ∧ ox + m ≤ 63 ∧ py ≤ 31) = false :=
      decide_eq_false (by omega)
    rw [h1, Bool.false_and, Bool.xor_false]
    constructor
    · rintro ((h | ⟨c, hc, h⟩) | h)
      · exact .inl h
      · exact .inr ⟨c, by omega, h⟩
      · exact .inr ⟨m, by omega, h⟩
    · rintro (h | ⟨c, hc, h⟩)
      · exact .inl (.inl h)
      · by_cases hm : c = m
        · subst hm; exact .inr h
        · exact .inl (.inr ⟨c, by omega, h⟩)

/-- A row flips the cells its 1 bits reach. -/
theorem cell_drawRow (ox py : Nat) (row : Byte) (g : Drawing) (qx qy : Nat) :
    Display.cell (drawRow ox py row g).1 qx qy
      = (Display.cell g.1 qx qy ^^
          (decide (ox ≤ qx ∧ qx < ox + 8 ∧ qy = py ∧ qx ≤ 63 ∧ py ≤ 31) && row.getLsbD (7 - (qx - ox)))) :=
  cell_drawRow_aux ox py row g 8 qx qy

/-- A row reports a collision if one of its 1 bits clears a cell that was set before it. -/
theorem hit_drawRow (ox py : Nat) (row : Byte) (g : Drawing) :
    (drawRow ox py row g).2 = true
      ↔ g.2 = true ∨ ∃ c < 8, row.getLsbD (7 - c) = true ∧ Display.cell g.1 (ox + c) py = true :=
  hit_drawRow_aux ox py row g 8

/-- The cells after the rows of a sprite: on the display, each is the old cell XOR the sprite's bit. -/
theorem cell_drawRows (ox py : Nat) (rows : List Byte) (g : Drawing) {qx qy : Nat} (hx : qx < 64) (hy : qy < 32) :
    Display.cell (drawRows ox py rows g).1 qx qy = (Display.cell g.1 qx qy ^^ spriteBit ox py rows qx qy) := by
  induction rows generalizing py g with
  | nil =>
    have : decide (ox ≤ qx ∧ qx < ox + 8 ∧ py ≤ qy ∧ qy < py + ([] : List Byte).length) = false :=
      decide_eq_false (by simp only [List.length_nil]; omega)
    rw [drawRows, spriteBit, this]; simp
  | cons row rows ih =>
    rw [drawRows, ih, cell_drawRow, Bool.xor_assoc]
    congr 1
    simp only [spriteBit, List.length_cons]
    by_cases h : qy = py
    · subst h
      have h1 : decide (ox ≤ qx ∧ qx < ox + 8 ∧ qy + 1 ≤ qy ∧ qy < qy + 1 + rows.length) = false :=
        decide_eq_false (by omega)
      have h2 : decide (ox ≤ qx ∧ qx < ox + 8 ∧ qy ≤ qy ∧ qy < qy + (rows.length + 1))
          = decide (ox ≤ qx ∧ qx < ox + 8 ∧ qy = qy ∧ qx ≤ 63 ∧ qy ≤ 31) := decide_eq_decide.mpr (by omega)
      rw [h1, h2, Nat.sub_self]; simp
    · have h1 : decide (ox ≤ qx ∧ qx < ox + 8 ∧ qy = py ∧ qx ≤ 63 ∧ py ≤ 31) = false := decide_eq_false (by omega)
      rw [h1, Bool.false_and, Bool.false_xor]
      by_cases h2 : py + 1 ≤ qy
      · have h3 : decide (ox ≤ qx ∧ qx < ox + 8 ∧ py + 1 ≤ qy ∧ qy < py + 1 + rows.length)
            = decide (ox ≤ qx ∧ qx < ox + 8 ∧ py ≤ qy ∧ qy < py + (rows.length + 1)) := decide_eq_decide.mpr (by omega)
        rw [h3, show qy - py = (qy - (py + 1)) + 1 by omega, List.getD_cons_succ]
      · have h3 : decide (ox ≤ qx ∧ qx < ox + 8 ∧ py + 1 ≤ qy ∧ qy < py + 1 + rows.length) = false :=
          decide_eq_false (by omega)
        have h4 : decide (ox ≤ qx ∧ qx < ox + 8 ∧ py ≤ qy ∧ qy < py + (rows.length + 1)) = false :=
          decide_eq_false (by omega)
        rw [h3, h4]; simp

/-- The rows of a sprite report a collision if one of their bits on the display clears a cell that was set before. -/
theorem hit_drawRows (ox py : Nat) (rows : List Byte) (g : Drawing) :
    (drawRows ox py rows g).2 = true
      ↔ g.2 = true ∨ ∃ qx qy, qx < 64 ∧ qy < 32 ∧ spriteBit ox py rows qx qy = true ∧ Display.cell g.1 qx qy = true := by
  induction rows generalizing py g with
  | nil =>
    simp only [drawRows, spriteBit, List.length_nil, Nat.add_zero]
    constructor
    · exact .inl
    · rintro (h | ⟨qx, qy, -, -, h, -⟩)
      · exact h
      · simp only [Bool.and_eq_true, decide_eq_true_eq] at h; omega
  | cons row rows ih =>
    rw [drawRows, ih, hit_drawRow]
    constructor
    · rintro ((h | ⟨c, hc, hb, hs⟩) | ⟨qx, qy, hx, hy, hb, hs⟩)
      · exact .inl h
      · have hon : ox + c < 64 ∧ py < 32 := by
          by_contra hn; rw [cell_off hn] at hs; cases hs
        refine .inr ⟨ox + c, py, hon.1, hon.2, ?_, hs⟩
        simp only [spriteBit, List.length_cons, Nat.sub_self, Nat.add_sub_cancel_left, List.getD_cons_zero, hb,
          Bool.and_true, decide_eq_true_eq]
        omega
      · simp only [spriteBit, Bool.and_eq_true, decide_eq_true_eq] at hb
        refine .inr ⟨qx, qy, hx, hy, ?_, ?_⟩
        · simp only [spriteBit, List.length_cons, Bool.and_eq_true, decide_eq_true_eq]
          refine ⟨by omega, ?_⟩
          rw [show qy - py = (qy - (py + 1)) + 1 by omega, List.getD_cons_succ]
          exact hb.2
        · rw [cell_drawRow] at hs
          have h1 : decide (ox ≤ qx ∧ qx < ox + 8 ∧ qy = py ∧ qx ≤ 63 ∧ py ≤ 31) = false := decide_eq_false (by omega)
          simpa [h1] using hs
    · rintro (h | ⟨qx, qy, hx, hy, hb, hs⟩)
      · exact .inl (.inl h)
      · simp only [spriteBit, List.length_cons, Bool.and_eq_true, decide_eq_true_eq] at hb
        by_cases hq : qy = py
        · subst hq
          rw [Nat.sub_self, List.getD_cons_zero] at hb
          refine .inl (.inr ⟨qx - ox, by omega, hb.2, ?_⟩)
          rwa [show ox + (qx - ox) = qx by omega]
        · refine .inr ⟨qx, qy, hx, hy, ?_, ?_⟩
          · simp only [spriteBit, Bool.and_eq_true, decide_eq_true_eq]
            refine ⟨by omega, ?_⟩
            have := hb.2
            rwa [show qy - py = (qy - (py + 1)) + 1 by omega, List.getD_cons_succ] at this
          · rw [cell_drawRow]
            have h1 : decide (ox ≤ qx ∧ qx < ox + 8 ∧ qy = py ∧ qx ≤ 63 ∧ py ≤ 31) = false := decide_eq_false (by omega)
            simpa [h1] using hs

end Sys2Proof.Machine
end

