-- ==== Sys2Proof/Laws/Step.lean ====
section
/-! SUPPORT. Laws/Step.lean: everything a step can do, and what the sprite of a `DRW` is. -/

namespace Sys2Proof.Machine

/-- A next state of the step comes from the execute phase of the decoded instruction. -/
theorem step_next_cases {s t : State} (h : step s = .next t) :
    ∃ i u, decode s.fetchWord = .ok i ∧ exec i s.beginStep = .next u ∧ t = u.endStep := by
  unfold step at h
  split at h
  · cases h
  · next i hd =>
    split at h
    · next u hu => cases h; exact ⟨i, u, hd, hu, rfl⟩
    · cases h
    · cases h

/-- A fault of the step is a decode failure or a fault of the execute phase. -/
theorem step_fault_cases {s : State} {f : Fault} (h : step s = .fault f) :
    ((∃ e, decode s.fetchWord = .error e) ∧ f = .decodeError s.fetchWord s.pc) ∨
      ∃ i, decode s.fetchWord = .ok i ∧ exec i s.beginStep = .fault f := by
  unfold step at h
  split at h
  · next e he => cases h; exact .inl ⟨⟨e, he⟩, rfl⟩
  · next i hd =>
    split at h
    · cases h
    · next e he => cases h; exact .inr ⟨i, hd, he⟩
    · cases h

/-- The bit of a sprite whose rows are those at `I`. -/
theorem spriteBit_spriteRows (s : State) (x y : RegIx) (n : Count) (qx qy : Nat) :
    spriteBit (s.originX x) (s.originY y) (s.spriteRows n) qx qy = s.drwBit x y n qx qy := by
  simp only [spriteBit, State.drwBit, State.spriteRows, State.originX, State.originY, List.length_map, List.length_range]
  by_cases h : (s.getV x).toNat % 64 ≤ qx ∧ qx < (s.getV x).toNat % 64 + 8 ∧ (s.getV y).toNat % 32 ≤ qy ∧
      qy < (s.getV y).toNat % 32 + n.toNat
  · have hr : qy - (s.getV y).toNat % 32 < n.toNat := by omega
    congr 2
    rw [List.getD_eq_getElem?_getD, List.getElem?_map, List.getElem?_range hr]
    rfl
  · simp [h]

end Sys2Proof.Machine
end

