-- ==== Sys2Proof/Tests/Slice0.lean ====
section
/-! SUPPORT. Tests/Slice0.lean: checks of the model against words and results written out from the spec (95_test_vectors.md), and
for every obligation with hypotheses a witness that meets them. -/

namespace Sys2Proof.Tests

open Sys2Proof Sys2Proof.Machine

/-! ### Helpers -/

/-- The construction state at 600 Hz with one step's inputs laid out: no key, random byte 0 (95_test_vectors.md, conventions). -/
def start : State :=
  { State.reset with acc := 600, clockHz := 600, inputs := [⟨0x0000, 0x00⟩] }

/-- Set registers. -/
def regs (s : State) : List (RegIx × Byte) → State
  | [] => s
  | (x, b) :: rest => regs (s.setV x b) rest

/-- Set bytes of memory from an address on. -/
def bytes (s : State) (a : Nat) (l : List Byte) : State := s.loadBytes a l

/-- The same state with these inputs for its step. -/
def given (s : State) (keys : BitVec 16) (rand : Byte) : State := s.withInputs [⟨keys, rand⟩] 0

/-- What one step of the word at `PC` leaves, seen through `f`; none where it stops. -/
def after {α : Type} (s : State) (w : Nat) (f : State → α) : Option α :=
  match step (s.withFetchWord 16 w) with
  | .next t => some (f t)
  | .fault _ => none
  | .refused _ => none

/-- The fault one step of the word at `PC` stops with. -/
def stops (s : State) (w : Nat) : Option Fault :=
  match step (s.withFetchWord 16 w) with
  | .fault e => some e
  | .next _ => none
  | .refused _ => none

/-- Some cells of the display, each (column, row). -/
def look (d : Display) (l : List (Nat × Nat)) : List Bool := l.map fun p => Display.cell d p.1 p.2

/-- A display with one set cell. -/
def oneCell (px py : Nat) : Display := Display.toggle Display.blank px py

/-- A state whose call stack holds `n` entries, each 0x204. -/
def depth (n : Fin 17) : State := { start with sp := n, stack := Vector.replicate 16 0x204 }

/-! ### Well-formedness -/

/-- The two address fields that belong to `CLS` and `RET` are no `SYS`; every other instruction is well formed. -/
theorem test_ill_formed_refused :
    (Instr.sys 0x0E0).wellFormed = false ∧ (Instr.sys 0x0EE).wellFormed = false ∧
    (Instr.sys 0x0E1).wellFormed = true ∧ (Instr.drw 15 15 0).wellFormed = true := by decide

/-! ### Decoding, each word written out from its encoding (30_encoding.md R75) -/

theorem test_decode_family0 :
    decode 0b0000000011100000 = .ok .cls ∧ decode 0b0000000011101110 = .ok .ret ∧
    decode 0b0000111111111111 = .ok (.sys 0xFFF) ∧ decode 0b0000000011100001 = .ok (.sys 0x0E1) := by decide

theorem test_decode_addresses :
    decode 0b0001101010111100 = .ok (.jp 0xABC) ∧ decode 0b0010101010111100 = .ok (.call 0xABC) ∧
    decode 0b1010101010111100 = .ok (.ldI 0xABC) ∧ decode 0b1011101010111100 = .ok (.jpV0 0xABC) := by decide

theorem test_decode_immediates :
    decode 0b0011001100101010 = .ok (.seImm 3 0x2A) ∧ decode 0b0100001100101010 = .ok (.sneImm 3 0x2A) ∧
    decode 0b0110101001111111 = .ok (.ldImm 10 0x7F) ∧ decode 0b0111000100000010 = .ok (.addImm 1 0x02) ∧
    decode 0b1100001100001111 = .ok (.rnd 3 0x0F) := by decide

theorem test_decode_pairs :
    decode 0b0101000100100000 = .ok (.seReg 1 2) ∧ decode 0b1001000100100000 = .ok (.sneReg 1 2) ∧
    decode 0b1000000100100000 = .ok (.ldReg 1 2) ∧ decode 0b1000000100100001 = .ok (.orReg 1 2) ∧
    decode 0b1000000100100010 = .ok (.andReg 1 2) ∧ decode 0b1000000100100011 = .ok (.xorReg 1 2) ∧
    decode 0b1000000100100100 = .ok (.addReg 1 2) ∧ decode 0b1000000100100101 = .ok (.sub 1 2) ∧
    decode 0b1000000100100110 = .ok (.shr 1) ∧ decode 0b1000000100100111 = .ok (.subn 1 2) ∧
    decode 0b1000000100101110 = .ok (.shl 1) ∧ decode 0b1101000100100101 = .ok (.drw 1 2 5) := by decide

theorem test_decode_familyE_F :
    decode 0b1110001110011110 = .ok (.skp 3) ∧ decode 0b1110001110100001 = .ok (.sknp 3) ∧
    decode 0b1111001100000111 = .ok (.ldVxDt 3) ∧ decode 0b1111001100001010 = .ok (.ldVxK 3) ∧
    decode 0b1111001100010101 = .ok (.ldDtVx 3) ∧ decode 0b1111001100011000 = .ok (.ldStVx 3) ∧
    decode 0b1111001100011110 = .ok (.addI 3) ∧ decode 0b1111001100101001 = .ok (.ldF 3) ∧
    decode 0b1111001100110011 = .ok (.ldB 3) ∧ decode 0b1111001101010101 = .ok (.stRegs 3) ∧
    decode 0b1111001101100101 = .ok (.ldRegs 3) := by decide

/-- D-DEC-6, 7, 8: illegal words. -/
theorem test_decode_illegal_pairs :
    decode 0x5121 = .error (.illegal 0x5121) ∧
    decode 0x512F = .error (.illegal 0x512F) ∧
    decode 0x9121 = .error (.illegal 0x9121) ∧
    decode 0x8128 = .error (.illegal 0x8128) ∧
    decode 0x812D = .error (.illegal 0x812D) ∧
    decode 0x812F = .error (.illegal 0x812F) := by decide

/-- D-DEC-10, 12. -/
theorem test_decode_illegal_sub_opcodes :
    decode 0xE09F = .error (.illegal 0xE09F) ∧
    decode 0xE000 = .error (.illegal 0xE000) ∧
    decode 0xE19D = .error (.illegal 0xE19D) ∧
    decode 0xF000 = .error (.illegal 0xF000) ∧
    decode 0xF075 = .error (.illegal 0xF075) ∧
    decode 0xF085 = .error (.illegal 0xF085) ∧
    decode 0xF030 = .error (.illegal 0xF030) ∧
    decode 0xF01F = .error (.illegal 0xF01F) ∧
    decode 0xF0FF = .error (.illegal 0xF0FF) := by decide

/-- A byte stream: two bytes an instruction, the high byte first; fewer are refused (R70). -/
theorem test_decode_bytes :
    decodeBytes [0x61, 0x02, 0x00] = .ok (.ldImm 1 0x02, [0x00]) ∧ decodeBytes [0x61] = .error .truncated ∧
    decodeBytes [] = .error .truncated ∧ encodeBytes (.ldImm 1 0x02) = [0x61, 0x02] := by decide

theorem test_table_word :
    decodeTableWord 16 0x2ABC = some (.call 0xABC) ∧ decodeTableWord 16 0x8128 = none := by decide

/-! ### The step (95_test_vectors.md 2.2) -/

/-- D-STEP-1: `PC` wraps. -/
theorem test_step_wraps :
    after { start with pc := 0xFFE } 0x6001 (fun t => (t.getV 0, t.pc)) = some (0x01, 0x000) := by decide

/-- D-STEP-2: the fetch wraps. -/
theorem test_fetch_wraps :
    after { start with pc := 0xFFF } 0x6A33 (fun t => (t.getV 10, t.pc, t.memRead 0)) = some (0x33, 0x001, 0x33) := by
  decide

/-- D-STEP-3: `SYS` does nothing; `ACC` falls by 60, and the step's inputs are used up. -/
theorem test_sys :
    after { start with pc := 0x300 } 0x0123 (fun t => (t.pc, t.acc, t.inputs.isEmpty, t.frame.isNone)) = some (0x302, 540, true, true) := by
  decide

/-- D-FLT-1, D-FLT-2, D-FLT-3: the faults of a step. -/
theorem test_faults :
    stops { start with pc := 0x202 } 0x8008 = some (.decodeError 0x8008 0x202) ∧
    stops start 0x00EE = some (.stackFault .underflow) ∧ stops (depth 16) 0x2300 = some (.stackFault .overflow) := by decide

/-! ### Control transfer (95_test_vectors.md 2.3) -/

/-- D-CTL-1, D-CTL-2. -/
theorem test_jp :
    after start 0x1ABC State.pc = some 0xABC ∧ after { start with pc := 0x20C } 0x120C State.pc = some 0x20C := by decide

/-- D-CTL-3, D-CTL-4. -/
theorem test_call :
    after start 0x2300 (fun t => (t.stack[0], t.sp, t.pc)) = some (0x202, 1, 0x300) ∧
    after { start with pc := 0xFFE } 0x2ABC (fun t => (t.stack[0], t.sp, t.pc)) = some (0x000, 1, 0xABC) := by decide

/-- D-CTL-6, and a stack with all 16 entries. -/
theorem test_ret :
    after (depth 1) 0x00EE (fun t => (t.sp, t.pc)) = some (0, 0x204) ∧
    after (depth 16) 0x00EE (fun t => (t.sp, t.pc)) = some (15, 0x204) := by decide

/-- D-CTL-8, D-CTL-13. -/
theorem test_se_imm :
    after (regs start [(3, 0x2A)]) 0x332A State.pc = some 0x204 ∧
    after (regs start [(3, 0x2B)]) 0x332A State.pc = some 0x202 ∧
    after { start with pc := 0xFFC } 0x3000 State.pc = some 0x000 := by decide

/-- D-CTL-9. -/
theorem test_sne_imm :
    after (regs start [(3, 0x2A)]) 0x432A State.pc = some 0x202 ∧ after start 0x432A State.pc = some 0x204 := by decide

/-- D-CTL-10, D-CTL-12. -/
theorem test_se_reg :
    after (regs start [(1, 7), (2, 7)]) 0x5120 State.pc = some 0x204 ∧
    after (regs start [(1, 7), (2, 8)]) 0x5120 State.pc = some 0x202 ∧
    after start 0x5330 State.pc = some 0x204 := by decide

/-- D-CTL-11, D-CTL-12. -/
theorem test_sne_reg :
    after (regs start [(1, 7), (2, 8)]) 0x9120 State.pc = some 0x204 ∧
    after (regs start [(1, 7), (2, 7)]) 0x9120 State.pc = some 0x202 ∧
    after start 0x9330 State.pc = some 0x202 := by decide

/-- D-CTL-14, D-CTL-15. -/
theorem test_jp_v0 :
    after (regs start [(0, 0x10)]) 0xB300 State.pc = some 0x310 ∧
    after (regs start [(0, 0xFF)]) 0xBFFF State.pc = some 0x0FE := by decide

/-! ### Loads and arithmetic (95_test_vectors.md 2.4) -/

/-- D-ALU-1, D-VF-11. -/
theorem test_ld_imm :
    after start 0x6A7F (·.getV 10) = some 0x7F ∧ after (regs start [(15, 0xAB)]) 0x6F12 (·.getV 15) = some 0x12 := by decide

/-- D-ALU-2, D-VF-11. -/
theorem test_add_imm :
    after (regs start [(1, 0xFF)]) 0x7102 (fun t => (t.getV 1, t.getV 15)) = some (0x01, 0) ∧
    after (regs start [(15, 0xAB)]) 0x7F01 (·.getV 15) = some 0xAC := by decide

/-- D-ALU-3. -/
theorem test_ld_reg : after (regs start [(2, 0x33)]) 0x8120 (·.getV 1) = some 0x33 := by decide

/-- D-ALU-4. -/
theorem test_or :
    after (regs start [(1, 0xF0), (2, 0x0F), (15, 1)]) 0x8121 (fun t => (t.getV 1, t.getV 15)) = some (0xFF, 1) := by decide

/-- D-ALU-5. -/
theorem test_and : after (regs start [(1, 0xF0), (2, 0x3C)]) 0x8122 (·.getV 1) = some 0x30 := by decide

/-- D-ALU-6, D-ALU-7. -/
theorem test_xor :
    after (regs start [(1, 0xF0), (2, 0x3C)]) 0x8123 (·.getV 1) = some 0xCC ∧
    after (regs start [(1, 0x5A)]) 0x8113 (·.getV 1) = some 0x00 := by decide

/-- D-ALU-8, 9, 10, 11. -/
theorem test_add_reg :
    after (regs start [(0, 0xFF), (1, 0x02)]) 0x8014 (fun t => (t.getV 0, t.getV 15)) = some (0x01, 1) ∧
    after (regs start [(0, 0x10), (1, 0x20), (15, 1)]) 0x8014 (fun t => (t.getV 0, t.getV 15)) = some (0x30, 0) ∧
    after (regs start [(0, 0xFF), (1, 0x01)]) 0x8014 (fun t => (t.getV 0, t.getV 15)) = some (0x00, 1) ∧
    after (regs start [(1, 0x80)]) 0x8114 (fun t => (t.getV 1, t.getV 15)) = some (0x00, 1) := by decide

/-- D-VF-1, 2, 3, 4: the flag wins over the sum. -/
theorem test_add_reg_vf :
    after (regs start [(15, 0xF0), (1, 0x20)]) 0x8F14 (·.getV 15) = some 0x01 ∧
    after (regs start [(15, 0x10), (1, 0x20)]) 0x8F14 (·.getV 15) = some 0x00 ∧
    after (regs start [(15, 0x01), (1, 0xFF)]) 0x81F4 (fun t => (t.getV 1, t.getV 15)) = some (0x00, 0x01) ∧
    after (regs start [(15, 0x90)]) 0x8FF4 (·.getV 15) = some 0x01 := by decide

/-- D-ALU-12, 13, 14. -/
theorem test_sub :
    after (regs start [(0, 0x01), (1, 0x02)]) 0x8015 (fun t => (t.getV 0, t.getV 15)) = some (0xFF, 0) ∧
    after (regs start [(0, 0x05), (1, 0x05)]) 0x8015 (fun t => (t.getV 0, t.getV 15)) = some (0x00, 1) ∧
    after (regs start [(1, 0x09)]) 0x8115 (fun t => (t.getV 1, t.getV 15)) = some (0x00, 1) := by decide

/-- D-VF-5, 6. -/
theorem test_sub_vf :
    after (regs start [(15, 0x05), (1, 0x03)]) 0x8F15 (·.getV 15) = some 0x01 ∧
    after (regs start [(15, 0x03), (1, 0x05)]) 0x8F15 (·.getV 15) = some 0x00 := by decide

/-- D-ALU-17, 18, 19. -/
theorem test_shr :
    after (regs start [(2, 0x05)]) 0x8206 (fun t => (t.getV 2, t.getV 15)) = some (0x02, 1) ∧
    after (regs start [(2, 0x05)]) 0x82F6 (fun t => (t.getV 2, t.getV 15)) = some (0x02, 1) ∧
    after (regs start [(2, 0xFE)]) 0x8206 (fun t => (t.getV 2, t.getV 15)) = some (0x7F, 0) := by decide

/-- D-VF-9. -/
theorem test_shr_vf :
    after (regs start [(15, 0x03)]) 0x8F06 (·.getV 15) = some 0 ∧
    after (regs start [(15, 0x02)]) 0x8F06 (·.getV 15) = some 0 := by decide

/-- D-ALU-15, 16. -/
theorem test_subn :
    after (regs start [(0, 0x01), (1, 0x03)]) 0x8017 (fun t => (t.getV 0, t.getV 15)) = some (0x02, 1) ∧
    after (regs start [(0, 0x03), (1, 0x01)]) 0x8017 (fun t => (t.getV 0, t.getV 15)) = some (0xFE, 0) := by decide

/-- D-VF-7, 8. -/
theorem test_subn_vf :
    after (regs start [(15, 0x05), (1, 0x03)]) 0x8F17 (·.getV 15) = some 0x00 ∧
    after (regs start [(15, 0x03), (1, 0x05)]) 0x8F17 (·.getV 15) = some 0x01 := by decide

/-- D-ALU-20, 21. -/
theorem test_shl :
    after (regs start [(2, 0x81)]) 0x820E (fun t => (t.getV 2, t.getV 15)) = some (0x02, 1) ∧
    after (regs start [(2, 0x7F)]) 0x820E (fun t => (t.getV 2, t.getV 15)) = some (0xFE, 0) := by decide

/-- D-VF-10. -/
theorem test_shl_vf :
    after (regs start [(15, 0x81)]) 0x8F0E (·.getV 15) = some 0x02 ∧
    after (regs start [(15, 0x7F)]) 0x8F0E (·.getV 15) = some 0x00 := by decide

/-- D-ALU-22, 23. -/
theorem test_rnd :
    after (given start 0 0xB7) 0xC30F (·.getV 3) = some 0x07 ∧ after (given start 0 0xB7) 0xC300 (·.getV 3) = some 0x00 ∧
    after (given start 0 0xB7) 0xC3FF (·.getV 3) = some 0xB7 := by decide

/-! ### Index register and memory (95_test_vectors.md 2.5) -/

/-- D-MEM-1. -/
theorem test_ld_i : after start 0xA2F0 State.index = some 0x2F0 := by decide

/-- D-MEM-2, D-MEM-3. -/
theorem test_add_i :
    after (regs { start with index := 0x2F0 } [(4, 0x20)]) 0xF41E State.index = some 0x310 ∧
    after (regs { start with index := 0xFFF } [(0, 0xFF)]) 0xF01E (fun t => (t.index, t.getV 15)) = some (0x0FE, 0) := by
  decide

/-- D-MEM-4, D-MEM-5. -/
theorem test_ld_f :
    after (regs start [(0, 0x0A)]) 0xF029 State.index = some 0x082 ∧
    after (regs start [(0, 0x0F)]) 0xF029 State.index = some 0x09B ∧
    after (regs start [(0, 0xFF)]) 0xF029 State.index = some 0x54B := by decide

/-- D-MEM-6, D-MEM-7. -/
theorem test_ld_b :
    after (regs { start with index := 0x300 } [(5, 0xFE)]) 0xF533 (fun t => (t.memRead 0x300, t.memRead 0x301, t.memRead 0x302))
      = some (2, 5, 4) ∧
    after (regs { start with index := 0x300 } [(5, 0x64)]) 0xF533 (fun t => (t.memRead 0x300, t.memRead 0x301, t.memRead 0x302))
      = some (1, 0, 0) := by decide

/-- D-MEM-8: the store wraps. -/
theorem test_ld_b_wraps :
    after (regs { start with index := 0xFFE } [(5, 0xFF)]) 0xF533
      (fun t => (t.memRead 0xFFE, t.memRead 0xFFF, t.memRead 0x000, t.index)) = some (2, 5, 5, 0xFFE) := by decide

/-- D-MEM-9, D-MEM-11. -/
theorem test_st_regs :
    after (regs { start with index := 0x400 } [(0, 0x11), (1, 0x22), (2, 0x33), (3, 0x44)]) 0xF255
      (fun t => ((List.range 4).map (fun k => t.memRead (0x400 + k)), t.index)) = some ([0x11, 0x22, 0x33, 0x00], 0x400) ∧
    after (regs { start with index := 0xFFF } [(0, 0xAA), (1, 0xBB), (2, 0xCC)]) 0xF255
      (fun t => (t.memRead 0xFFF, t.memRead 0x000, t.memRead 0x001)) = some (0xAA, 0xBB, 0xCC) := by decide

/-- D-MEM-13, D-MEM-14. -/
theorem test_ld_regs :
    after { start with index := 0x050 } 0xFF65 (fun t => t.v.toList)
      = some [0xF0, 0x90, 0x90, 0x90, 0xF0, 0x20, 0x60, 0x20, 0x20, 0x70, 0xF0, 0x10, 0xF0, 0x80, 0xF0, 0xF0] ∧
    after (bytes (bytes { start with index := 0xFFF } 0xFFF [0x12]) 0x000 [0x34]) 0xF165
      (fun t => (t.getV 0, t.getV 1, t.getV 2, t.index)) = some (0x12, 0x34, 0x00, 0xFFF) := by decide

/-! ### Display (95_test_vectors.md 2.6) -/

/-- D-CLS-1. -/
theorem test_cls :
    after (regs { start with disp := oneCell 5 5 } [(15, 3)]) 0x00E0
      (fun t => (decide (t.disp = Display.blank), decide (t.frame = some Display.blank), t.getV 15))
      = some (true, true, 3) := by decide

/-- D-DRW-3, D-DRW-5, D-DRW-11: clipping at the right edge, the wrap of the origin, two rows whose addresses wrap. -/
theorem test_drw :
    after (regs (bytes { start with index := 0x300 } 0x300 [0xFF]) [(0, 60)]) 0xD011
      (fun t => (look t.disp [(59, 0), (60, 0), (63, 0), (0, 0), (60, 1)], t.getV 15)) =
      some ([false, true, true, false, false], 0) ∧
    after (regs (bytes { start with index := 0x300 } 0x300 [0x80]) [(0, 70), (1, 33)]) 0xD011
      (fun t => look t.disp [(5, 1), (6, 1), (7, 1), (6, 0)]) = some [false, true, false, false] ∧
    after (bytes (bytes { start with index := 0xFFF } 0xFFF [0x80]) 0x000 [0x40]) 0xD002
      (fun t => look t.disp [(0, 0), (1, 0), (0, 1), (1, 1)]) = some [true, false, false, true] := by decide

/-- D-DRW-7, D-DRW-9, D-DRW-10: a collision, an empty sprite, `VF` as the column. -/
theorem test_drw_vf :
    after (bytes { start with index := 0x300, disp := oneCell 0 0 } 0x300 [0xC0]) 0xD011
      (fun t => (look t.disp [(0, 0), (1, 0), (2, 0)], t.getV 15)) = some ([false, true, false], 1) ∧
    after (regs { start with disp := oneCell 0 0 } [(15, 7)]) 0xD000
      (fun t => (look t.disp [(0, 0), (1, 0)], t.getV 15, t.frame.isSome)) = some ([true, false], 0, true) ∧
    after (regs (bytes { start with index := 0x300 } 0x300 [0x80]) [(15, 5), (1, 2)]) 0xDF11
      (fun t => (look t.disp [(5, 2), (0, 2)], t.getV 15)) = some ([true, false], 0) := by decide

/-! ### Keypad and timers (95_test_vectors.md 2.7, 2.8) -/

/-- D-KEY-1, D-KEY-6. -/
theorem test_skp :
    after (regs (given start 0x0020 0) [(2, 0x05)]) 0xE29E State.pc = some 0x204 ∧
    after (regs start [(2, 0x05)]) 0xE29E State.pc = some 0x202 ∧
    after (regs (given start 0x0020 0) [(2, 0x15)]) 0xE29E State.pc = some 0x204 := by decide

/-- D-KEY-2, D-KEY-7. -/
theorem test_sknp :
    after (regs (given start 0x0020 0) [(2, 0x05)]) 0xE2A1 State.pc = some 0x202 ∧
    after (regs start [(2, 0x05)]) 0xE2A1 State.pc = some 0x204 ∧
    after (regs (given start 0x0020 0) [(2, 0xF5)]) 0xE2A1 State.pc = some 0x202 := by decide

/-- D-KEY-3, D-KEY-4, D-KEY-5. -/
theorem test_ld_vx_k :
    after start 0xF30A (fun t => (t.pc, t.getV 3)) = some (0x200, 0) ∧
    after (given start 0x0180 0) 0xF30A (fun t => (t.pc, t.getV 3)) = some (0x202, 0x07) ∧
    after (given start 0x8000 0) 0xF30A (·.getV 3) = some 0x0F ∧
    after { start with pc := 0x000 } 0xF30A State.pc = some 0x000 := by decide

/-- D-TMR-8, D-TMR-11. -/
theorem test_ld_vx_dt :
    after { start with dt := 0x3C } 0xF407 (·.getV 4) = some 0x3C ∧
    after { start with dt := 0x3C, acc := 60 } 0xF407 (fun t => (t.getV 4, t.dt)) = some (0x3C, 0x3B) ∧
    after { start with dt := 0x3C, acc := 60, timerPhase := .beforeFetch } 0xF407 (·.getV 4) = some 0x3B := by decide

/-- D-TMR-9, D-TMR-10. -/
theorem test_ld_dt_vx :
    after (regs start [(4, 0x3C)]) 0xF415 (fun t => (t.dt, t.acc)) = some (0x3C, 540) ∧
    after (regs { start with acc := 60 } [(4, 0x3C)]) 0xF415 (fun t => (t.dt, t.acc)) = some (0x3B, 600) ∧
    after (regs { start with acc := 60, timerPhase := .beforeFetch } [(4, 0x3C)]) 0xF415 State.dt = some 0x3C := by decide

/-- D-TMR-12, D-TMR-13, D-TMR-14. -/
theorem test_ld_st_vx :
    after (regs start [(4, 0x02)]) 0xF418 (fun t => (t.st, t.buzzer)) = some (0x02, true) ∧
    after { start with st := 9 } 0xF418 (fun t => (t.st, t.buzzer)) = some (0x00, false) ∧
    after (regs { start with acc := 60 } [(4, 0x01)]) 0xF418 (fun t => (t.st, t.buzzer)) = some (0x00, false) := by decide

/-- D-TMR-2, D-TMR-4, D-TMR-5: ticks at 500, 61 and 30 steps per second. -/
theorem test_timer_phase :
    after { start with dt := 5, acc := 20, clockHz := 500 } 0x0000 (fun t => (t.dt, t.acc)) = some (4, 500) ∧
    after { start with dt := 5, acc := 61, clockHz := 61 } 0x0000 (fun t => (t.dt, t.acc)) = some (5, 1) ∧
    after { start with dt := 5, acc := 30, clockHz := 30 } 0x0000 (fun t => (t.dt, t.acc)) = some (4, 30) ∧
    after { start with dt := 0, acc := 1, clockHz := 61 } 0x0000 (fun t => (t.dt, t.acc)) = some (0, 61) := by decide

/-! ### Witnesses: for each obligation with hypotheses, a state and operands that meet them, clause by clause -/

/-- `start` with a word placed at `PC`. -/
def placed (s : State) (w : Nat) : State := s.withFetchWord 16 w

/-- Obligations.DecodeOfEncodeIsTheInstruction: least and greatest operands. -/
theorem test_witness_round_trip :
    (Instr.sys 0xFFF).wellFormed = true ∧ (Instr.addReg 0 15).wellFormed = true ∧ (Instr.ldImm 15 0xFF).wellFormed = true := by
  decide

/-- Obligations.DecodedWordsEncodeBack: both clauses; y is lost in `SHR` and `SHL` only. -/
theorem test_witness_encode_back :
    decode 0x81F6 = .ok (.shr 1) ∧ encode (.shr 1) = 0x81F6 &&& 0xFF0F ∧ decode 0x81FE = .ok (.shl 1) ∧
    encode (.shl 1) = 0x81FE &&& 0xFF0F ∧ decode 0x81F4 = .ok (.addReg 1 15) ∧ encode (.addReg 1 15) = 0x81F4 := by decide

/-- Obligations.StepRunsTheDecodedInstruction, FrameExactlyForClearAndDraw, SysDoesNothing, StalledKeyWaitKeepsPc: the fetched
word decodes, in each of their clauses. -/
theorem test_witness_decodes :
    decode (placed start 0x8124).fetchWord = .ok (.addReg 1 2) ∧ decode (placed start 0x00E0).fetchWord = .ok .cls ∧
    decode (placed start 0xD120).fetchWord = .ok (.drw 1 2 0) ∧ decode (placed start 0x0FFF).fetchWord = .ok (.sys 0xFFF) ∧
    decode (placed { start with timerPhase := .beforeFetch } 0x00E1).fetchWord = .ok (.sys 0x0E1) ∧
    decode (placed { start with pc := 0xFFE } 0xF30A).fetchWord = .ok (.ldVxK 3) ∧ (placed start 0xF30A).keys = 0 := by decide

/-- Obligations.WhatSurroundsTheExecutePhase: both places of the timer phase. -/
theorem test_witness_timer_places :
    start.timerPhase = .afterExecute ∧ { start with timerPhase := .beforeFetch }.timerPhase = .beforeFetch := by decide

/-- Obligations.StepFaultsExactlyAsListed and FaultRepeatsWhateverTheInputs: each fault happens, the stack ones at their bound
only. -/
theorem test_witness_faults :
    stops start 0x5001 = some (.decodeError 0x5001 0x200) ∧ stops (depth 16) 0x2000 = some (.stackFault .overflow) ∧
    stops (depth 15) 0x2000 = none ∧ stops (depth 0) 0x00EE = some (.stackFault .underflow) ∧ stops (depth 1) 0x00EE = none := by
  decide

/-- Obligations.PlacedWordIsFetched, LdBStoresDecimalDigits, StRegsStoresTheBlock, MemoryPrimitivesReduceAddresses: memory in its
canonical form. -/
theorem test_witness_memory_form : Memory.wf start.mem ∧ Memory.wf (placed start 0xFFFF).mem ∧ (0xFFFF : Nat) < 65536 := by decide

/-- Obligations.InvariantsAtConstruction, ConstructionLoadsFontAndImage: a machine is constructed. -/
theorem test_witness_construct :
    (∃ s, construct 1 .beforeFetch defaultFont [0x12, 0x00] = .next s) ∧ (0 : Nat) < 1 ∧
    (List.replicate 3584 (0 : Byte)).length ≤ 3584 := ⟨⟨_, rfl⟩, by decide, by rw [List.length_replicate]⟩

/-- Obligations.LoadErrorExactlyForLongImages: one byte too many (D-LOAD-2), and `CLOCK_HZ` = 0. -/
theorem test_witness_load_error :
    construct 600 .afterExecute defaultFont (List.replicate 3585 0) = .fault (.loadError 3585) ∧
    construct 0 .afterExecute defaultFont [] = .refused .clockZero := by
  constructor
  · unfold construct
    rw [List.length_replicate, if_pos (by decide)]
    rfl
  · rfl

/-- Obligations.StepKeepsTheInvariants: `start` meets the invariants, and steps. -/
theorem test_witness_invariants : Invariants (placed start 0x6001) ∧ ∃ t, step (placed start 0x6001) = .next t :=
  ⟨⟨by decide, by decide, by decide, by decide, by decide, by decide⟩, ⟨_, rfl⟩⟩

/-- Obligations.StoreIsSeenByTheNextFetch: `ST_REGS` over the whole next word, `ST_REGS` with x = 0 over its second byte only, and
`LD_B`, whose last digit reaches its first byte. -/
theorem test_witness_store_seen :
    let s := placed (regs { start with index := 0x202 } [(0, 0x6A), (1, 0x55)]) 0xF155
    let u := placed (regs { start with index := 0x203 } [(0, 0x6A)]) 0xF055
    let w := placed (regs { start with index := 0x200 } [(5, 0xFE)]) 0xF533
    (Memory.wf s.mem ∧ decode s.fetchWord = .ok (.stRegs 1) ∧ s.aboveIndex 0x202 = 0 ∧ s.aboveIndex 0x203 = 1) ∧
    (Memory.wf u.mem ∧ decode u.fetchWord = .ok (.stRegs 0) ∧ u.aboveIndex 0x202 = 4095 ∧ u.aboveIndex 0x203 = 0) ∧
    (Memory.wf w.mem ∧ decode w.fetchWord = .ok (.ldB 5) ∧ w.aboveIndex 0x202 = 2 ∧ w.aboveIndex 0x203 = 3) := by decide

/-- Obligations.OnlyNamedInstructionsWriteEachElement: `SYS` meets every clause's premise. -/
theorem test_witness_writers :
    (∃ t, exec (.sys 0) start = .next t) ∧ writesReg (.sys 0) 15 = false ∧
    (∀ (x y : RegIx) (kk : Byte) (nnn : Addr), Instr.sys 0 ≠ .ret ∧ Instr.sys 0 ≠ .jp nnn ∧ Instr.sys 0 ≠ .call nnn ∧
      Instr.sys 0 ≠ .jpV0 nnn ∧ Instr.sys 0 ≠ .seImm x kk ∧ Instr.sys 0 ≠ .sneImm x kk ∧ Instr.sys 0 ≠ .seReg x y ∧
      Instr.sys 0 ≠ .sneReg x y ∧ Instr.sys 0 ≠ .skp x ∧ Instr.sys 0 ≠ .sknp x ∧ Instr.sys 0 ≠ .ldVxK x) ∧
    (∀ x, Instr.sys 0 ≠ .ldB x ∧ Instr.sys 0 ≠ .stRegs x) ∧
    (∀ nnn x, Instr.sys 0 ≠ .ldI nnn ∧ Instr.sys 0 ≠ .addI x ∧ Instr.sys 0 ≠ .ldF x) ∧
    (∀ nnn, Instr.sys 0 ≠ .call nnn ∧ Instr.sys 0 ≠ .ret) ∧ (∀ x y n, Instr.sys 0 ≠ .cls ∧ Instr.sys 0 ≠ .drw x y n) ∧
    (∀ x, Instr.sys 0 ≠ .ldDtVx x) ∧ (∀ x, Instr.sys 0 ≠ .ldStVx x) := by
  refine ⟨⟨_, rfl⟩, rfl, ?_, ?_, ?_, ?_, ?_, ?_, ?_⟩ <;> simp

/-- `writesReg` at the edges: the register above a block, `VF` beside a destination, `VF` alone. -/
theorem test_witness_writes_reg :
    writesReg (.ldRegs 3) 3 = true ∧ writesReg (.ldRegs 3) 4 = false ∧ writesReg (.addReg 0 1) 15 = true ∧
    writesReg (.addReg 0 1) 1 = false ∧ writesReg (.orReg 0 1) 15 = false ∧ writesReg (.drw 0 1 5) 0 = false := by decide

/-- Obligations.FlagRegisterHasSixWriters: an instruction that leaves `VF`, and flag writers. -/
theorem test_witness_flag_writers :
    (∃ t, exec (.ldImm 14 0xFF) start = .next t) ∧
    (∀ x y n, Instr.ldImm 14 0xFF ≠ .addReg x y ∧ Instr.ldImm 14 0xFF ≠ .sub x y ∧ Instr.ldImm 14 0xFF ≠ .subn x y ∧
      Instr.ldImm 14 0xFF ≠ .shr x ∧ Instr.ldImm 14 0xFF ≠ .shl x ∧ Instr.ldImm 14 0xFF ≠ .drw x y n) ∧
    (∀ y kk, Instr.ldImm 14 0xFF ≠ .ldImm 15 kk ∧ Instr.ldImm 14 0xFF ≠ .addImm 15 kk ∧ Instr.ldImm 14 0xFF ≠ .ldReg 15 y ∧
      Instr.ldImm 14 0xFF ≠ .orReg 15 y ∧ Instr.ldImm 14 0xFF ≠ .andReg 15 y ∧ Instr.ldImm 14 0xFF ≠ .xorReg 15 y ∧
      Instr.ldImm 14 0xFF ≠ .rnd 15 kk ∧ Instr.ldImm 14 0xFF ≠ .ldVxDt 15 ∧ Instr.ldImm 14 0xFF ≠ .ldVxK 15 ∧
      Instr.ldImm 14 0xFF ≠ .ldRegs 15) ∧
    (∃ t, exec (.addReg 15 15) start = .next t) ∧ (∃ t, exec (.shl 14) start = .next t) := by
  refine ⟨⟨_, rfl⟩, ?_, ?_, ⟨_, rfl⟩, ⟨_, rfl⟩⟩ <;> simp

/-- Obligations.FrameExactlyForClearAndDraw: each kind of instruction steps. -/
theorem test_witness_frames :
    (∃ t, step (placed start 0x00E0) = .next t) ∧ (∃ t, step (placed start 0xD120) = .next t) ∧
    ∃ t, step (placed start 0x6001) = .next t := ⟨⟨_, rfl⟩, ⟨_, rfl⟩, ⟨_, rfl⟩⟩

/-- Obligations.InputsReachOnlyTheirReaders: other inputs with the same keys where keys are read, or the same random byte where it
is read. -/
theorem test_witness_inputs :
    readsKeys (.skp 1) = true ∧ readsRand (.skp 1) = false ∧ (start.withInputs [⟨0, 7⟩] 3).keys = start.keys ∧
    readsRand (.rnd 1 1) = true ∧ readsKeys (.rnd 1 1) = false ∧ (start.withInputs [⟨7, 0⟩] 3).rand = start.rand := by decide

/-- Obligations about families of words: words at the ends of each family. -/
theorem test_witness_families :
    fieldN3 0x0FFF = 0x0 ∧ (0x0FFF : Word) ≠ 0x00E0 ∧ (0x0FFF : Word) ≠ 0x00EE ∧ fieldN3 0x1FFF = 0x1 ∧ fieldN3 0x2000 = 0x2 ∧ fieldN3 0xB000 = 0xB ∧
    fieldN3 0x3000 = 0x3 ∧ fieldN3 0x4FFF = 0x4 ∧
    fieldN3 0x5FF0 = 0x5 ∧ fieldN3 0x9001 = 0x9 ∧ fieldN3 0x6FFF = 0x6 ∧ fieldN3 0x7000 = 0x7 ∧ fieldN3 0xAFFF = 0xA ∧
    fieldN3 0xC000 = 0xC ∧ (fieldN3 0x8FF0 = 0x8 ∧ fieldN 0x8FF0 = 0x0) ∧ (fieldN3 0x8FF4 = 0x8 ∧ fieldN 0x8FF4 = 0x4) ∧
    (fieldN3 0x8005 = 0x8 ∧ fieldN 0x8005 = 0x5) ∧ (fieldN3 0x8007 = 0x8 ∧ fieldN 0x8007 = 0x7) := by decide

/-- Obligations.CallPushesTheReturnAddress, RetPopsTheReturnAddress, SixteenCallsNestAndNoMore: the bounds of the stack. -/
theorem test_witness_stack_bounds :
    (depth 15).sp.val < 16 ∧ (depth 16).sp.val = 16 ∧ (depth 1).sp.val = (0 : Fin 16).val + 1 ∧
    (depth 16).sp.val = (15 : Fin 16).val + 1 ∧ (depth 0).sp.val = 0 ∧
    (List.replicate 16 (0x200 : Addr)).length ≤ 16 ∧ (List.replicate 17 (0x200 : Addr)).length = 17 := by decide

/-- Obligations.ReturnUndoesCall: a call that succeeds, at both ends of the stack. -/
theorem test_witness_return :
    (∃ t, exec (.call 0x300) (depth 0) = .next t) ∧ ∃ t, exec (.call 0x300) (depth 15) = .next t := ⟨⟨_, rfl⟩, ⟨_, rfl⟩⟩

/-- Obligations.DecimalDigitsReconstruct: a store that wraps. -/
theorem test_witness_digits :
    Memory.wf (regs { start with index := 0xFFE } [(5, 0xFF)]).mem ∧
    ∃ t, exec (.ldB 5) (regs { start with index := 0xFFE } [(5, 0xFF)]) = .next t := ⟨by decide, ⟨_, rfl⟩⟩

/-- Obligations.StRegsStoresTheBlock: addresses just outside a block of three that wraps. -/
theorem test_witness_outside_block :
    (∀ k : RegIx, k ≤ 2 → (2 : Nat) % 4096 ≠ (0xFFF + k.toNat) % 4096) ∧
    ∀ k : RegIx, k ≤ 2 → (0xFFE : Nat) % 4096 ≠ (0xFFF + k.toNat) % 4096 := by decide

/-- Obligations.LdBStoresDecimalDigits: an address just outside the three bytes. -/
theorem test_witness_outside_digits :
    (1 : Nat) % 4096 ≠ 0xFFE % 4096 ∧ (1 : Nat) % 4096 ≠ (0xFFE + 1) % 4096 ∧ (1 : Nat) % 4096 ≠ (0xFFE + 2) % 4096 := by decide

/-- Obligations.DrawingTwiceRestoresTheDisplay: a first draw without collision that changes the display, and a second. -/
theorem test_witness_draw_twice :
    let s := bytes { start with index := 0x300 } 0x300 [0x80]
    ∃ t u, exec (.drw 0 1 1) s = .next t ∧ exec (.drw 0 1 1) t = .next u ∧ (0 : RegIx) ≠ 15 ∧ (1 : RegIx) ≠ 15 ∧
      t.getV 15 = 0 ∧ t.disp ≠ s.disp :=
  ⟨_, _, rfl, rfl, by decide, by decide, by decide, fun h => absurd (congrArg (fun d => Display.cell d 0 0) h) (by decide)⟩

/-- Obligations.KeyWaitStallsOrTakesTheLeastKey: no key, and all of them. -/
theorem test_witness_keys : (given start 0x0000 0).keys = 0 ∧ (given start 0xFFFF 0).keys ≠ 0 := by decide

/-- Obligations.TimerPhaseTicksOrCountsDown: where its clauses meet. -/
theorem test_witness_timer_phase : 60 < { start with acc := 61 }.acc ∧ { start with acc := 60 }.acc ≤ 60 := by decide

/-- Obligations.TimersTickEveryPeriod: a full accumulator, at the least clock and at another. -/
theorem test_witness_period :
    1 ≤ start.clockHz ∧ start.acc = start.clockHz ∧ { start with acc := 1, clockHz := 1 }.acc = 1 := by decide

/-- Obligations.OutputsFollowTheState: a positive clock, and the corner cells. -/
theorem test_witness_outputs : 0 < start.clockHz ∧ (63 : Nat) < 64 ∧ (31 : Nat) < 32 := by decide

/-- Obligations.JumpToSelfStaysFinished: D-CTL-2, and a jump to self at the top of memory. -/
theorem test_witness_finished :
    (placed { start with pc := 0x20C } 0x120C).pc.toNat < 4096 ∧ Finished (placed { start with pc := 0x20C } 0x120C) ∧
    Finished (placed { start with pc := 0xFFF } 0x1FFF) := by
  refine ⟨by decide, ?_, ?_⟩ <;> unfold Finished <;> decide

end Sys2Proof.Tests
end

/-! Control transfer: jump targets and skips as numbers, the execute phase of the jumps and of the
compare-and-skip instructions, and the two obligations about them (41_control_transfer.md R123, R125 to R130). -/

namespace Sys2Proof.Machine

/-! ### Jump targets -/

theorem zextAddr_toNat (nnn : Addr) : (zextAddr nnn).toNat = nnn.toNat := by
  rw [zextAddr, BitVec.toNat_setWidth]; omega

theorem zextByte_toNat (b : Byte) : (zextByte b).toNat = b.toNat := by
  rw [zextByte, BitVec.toNat_setWidth]; omega

/-- 12 bits and 8 bits never carry out of 16, so the sum is exact before the mask. -/
theorem offsetTarget_toNat (s : State) (nnn : Addr) : (s.offsetTarget nnn).toNat = nnn.toNat + (s.getV 0).toNat := by
  rw [State.offsetTarget, BitVec.toNat_add, zextAddr_toNat, zextByte_toNat]; omega

/-- The mask leaves an absolute target as it is. -/
theorem mask12_zextAddr (nnn : Addr) : mask12 (zextAddr nnn) = BitVec.ofNat 16 nnn.toNat := by
  rw [mask12_eq_ofNat, zextAddr_toNat, Nat.mod_eq_of_lt nnn.isLt]

theorem mask12_offsetTarget (s : State) (nnn : Addr) :
    mask12 (s.offsetTarget nnn) = BitVec.ofNat 16 ((nnn.toNat + (s.getV 0).toNat) % 4096) := by
  rw [mask12_eq_ofNat, offsetTarget_toNat]

/-! ### Jumps -/

theorem exec_jp (nnn : Addr) (s : State) :
    exec (.jp nnn) s = .next { s with pc := BitVec.ofNat 16 nnn.toNat } := by
  rw [← mask12_zextAddr]; rfl

theorem exec_jpV0 (nnn : Addr) (s : State) :
    exec (.jpV0 nnn) s = .next { s with pc := BitVec.ofNat 16 ((nnn.toNat + (s.getV 0).toNat) % 4096) } := by
  rw [← mask12_offsetTarget]; rfl

/-! ### Skips -/

/-- A skip on equality of two bytes (R125, R127, R130). -/
theorem skipIf_beq (s : State) (a b : Byte) :
    s.skipIf (a == b) = { s with pc := if a = b then BitVec.ofNat 16 ((s.pc.toNat + 2) % 4096) else s.pc } := by
  simp only [State.skipIf, mask12_add_two, beq_iff_eq]

/-- A skip on inequality of two bytes (R126, R128, R130). -/
theorem skipIf_bne (s : State) (a b : Byte) :
    s.skipIf (a != b) = { s with pc := if a = b then s.pc else BitVec.ofNat 16 ((s.pc.toNat + 2) % 4096) } := by
  simp only [State.skipIf, mask12_add_two, bne_iff_ne, ite_not]

theorem exec_seImm (x : RegIx) (kk : Byte) (s : State) :
    exec (.seImm x kk) s = .next (s.skipIf (s.getV x == kk)) := rfl

theorem exec_sneImm (x : RegIx) (kk : Byte) (s : State) :
    exec (.sneImm x kk) s = .next (s.skipIf (s.getV x != kk)) := rfl

theorem exec_seReg (x y : RegIx) (s : State) :
    exec (.seReg x y) s = .next (s.skipIf (s.getV x == s.getV y)) := rfl

theorem exec_sneReg (x y : RegIx) (s : State) :
    exec (.sneReg x y) s = .next (s.skipIf (s.getV x != s.getV y)) := rfl

/-! ### The obligations -/

/-- Settles O24: the words by the decoder's families 1 and B, the jumps by their targets after the mask. -/
theorem jumpsGoToTheirTargets : Obligations.JumpsGoToTheirTargets := by
  unfold Obligations.JumpsGoToTheirTargets
  exact ⟨fun _ => ⟨decode_family1, decode_familyB⟩, fun nnn s => ⟨exec_jp nnn s, exec_jpV0 nnn s⟩⟩

/-- Settles O25: the words by the decoder's families 3, 4, 5 and 9, the skips by the comparison of two bytes they are made of. -/
theorem compareSkipsAddTwo : Obligations.CompareSkipsAddTwo := by
  unfold Obligations.CompareSkipsAddTwo
  refine ⟨fun _ => ⟨decode_family3, decode_family4, decode_family5, decode_family9⟩, fun x y kk s => ⟨?_, ?_, ?_, ?_⟩⟩
  · rw [exec_seImm, skipIf_beq]
  · rw [exec_sneImm, skipIf_bne]
  · rw [exec_seReg, skipIf_beq]
  · rw [exec_sneReg, skipIf_bne]

end Sys2Proof.Machine

/-! Loads and the immediate add: the word of `LD_REG`, the wrapping byte sum as a number, what an instruction that writes one
register does, and the obligation about them (42_load_alu.md R140 to R142, R153). -/

namespace Sys2Proof.Machine

/-! ### Words and sums -/

/-- Family 8, sub-opcode 0. -/
theorem decode_ldReg {op : Word} (h8 : fieldN3 op = 0x8) (h0 : fieldN op = 0x0) :
    decode op = .ok (.ldReg (fieldX op) (fieldY op)) := by
  rw [decode_family8 h8, decodeFamily8, h0]; rfl

/-- A byte sum wraps mod 256 (R153). -/
theorem byte_add_eq_ofNat (a b : Byte) : a + b = BitVec.ofNat 8 ((a.toNat + b.toNat) % 256) := by
  apply BitVec.eq_of_toNat_eq
  rw [BitVec.toNat_add, BitVec.toNat_ofNat, Nat.mod_mod]

/-! ### The execute phase -/

theorem exec_ldImm (x : RegIx) (kk : Byte) (s : State) : exec (.ldImm x kk) s = .next (s.setV x kk) := rfl

theorem exec_addImm (x : RegIx) (kk : Byte) (s : State) :
    exec (.addImm x kk) s = .next (s.setV x (BitVec.ofNat 8 (((s.getV x).toNat + kk.toNat) % 256))) := by
  rw [← byte_add_eq_ofNat]; rfl

theorem exec_ldReg (x y : RegIx) (s : State) : exec (.ldReg x y) s = .next (s.setV x (s.getV y)) := rfl

/-- An instruction whose execute phase is one register write changes that register and nothing else. -/
theorem exec_writes_one_register {i : Instr} {s : State} {x : RegIx} {b : Byte} (h : exec i s = .next (s.setV x b)) :
    ∃ t, exec i s = .next t ∧ t = { s with v := t.v } ∧ ∀ z, t.getV z = if z = x then b else s.getV z :=
  ⟨s.setV x b, h, rfl, fun z => getV_setV s x z b⟩

/-! ### The obligation -/

/-- Settles O30: the words by the decoder's families 6, 7 and 8, the results by the one register write each instruction is. -/
theorem loadsAndImmediateAdd : Obligations.LoadsAndImmediateAdd := by
  unfold Obligations.LoadsAndImmediateAdd
  refine ⟨fun _ => ⟨decode_family6, decode_family7, decode_ldReg⟩, fun x y kk s => ⟨?_, ?_, ?_⟩⟩
  · exact exec_writes_one_register (exec_ldImm x kk s)
  · exact exec_writes_one_register (exec_addImm x kk s)
  · exact exec_writes_one_register (exec_ldReg x y s)

end Sys2Proof.Machine

/-! The index register: the execute phase of `LD_I` and the obligation about it (43_index_memory.md R160). -/

namespace Sys2Proof.Machine

theorem exec_ldI (nnn : Addr) (s : State) :
    exec (.ldI nnn) s = .next { s with index := BitVec.ofNat 16 nnn.toNat } := by
  rw [← mask12_zextAddr]; rfl

/-- Settles O37: the words by the decoder's family A, the result by the one write of `I` the instruction is. -/
theorem ldILoadsTheAddress : Obligations.LdILoadsTheAddress := by
  unfold Obligations.LdILoadsTheAddress
  exact ⟨fun _ => decode_familyA, exec_ldI⟩

end Sys2Proof.Machine

/-! Clear screen: the one word of `CLS`, its execute phase, and the obligation about it (44_display.md R180). -/

namespace Sys2Proof.Machine

/-! ### The word -/

theorem decodeFamily0_eq_cls_iff (op : Word) : decodeFamily0 op = .cls ↔ op = 0x00E0 := by
  unfold decodeFamily0
  split
  · next h => exact ⟨fun _ => h, fun _ => rfl⟩
  · next h => split <;> exact ⟨nofun, fun h0 => absurd h0 h⟩

theorem decodeFamily8_ne_cls (op : Word) : decodeFamily8 op ≠ .ok .cls := by
  unfold decodeFamily8
  split <;> exact nofun

theorem decodeFamilyE_ne_cls (op : Word) : decodeFamilyE op ≠ .ok .cls := by
  unfold decodeFamilyE
  split <;> exact nofun

theorem decodeFamilyF_ne_cls (op : Word) : decodeFamilyF op ≠ .ok .cls := by
  unfold decodeFamilyF
  split <;> exact nofun

/-- No family but 0 has a word of `CLS`. -/
theorem fieldN3_of_decode_eq_cls {op : Word} (h : decode op = .ok .cls) : fieldN3 op = 0x0 := by
  unfold decode at h
  split at h
  case h_1 h0 => exact h0
  case h_9 => exact absurd h (decodeFamily8_ne_cls op)
  case h_15 => exact absurd h (decodeFamilyE_ne_cls op)
  case h_16 => exact absurd h (decodeFamilyF_ne_cls op)
  case h_6 | h_10 => split at h <;> cases h
  all_goals cases h

/-- Of the words of family 0 only 0x00E0 is `CLS`; the rest are `RET` and `SYS` (R77). -/
theorem decode_eq_cls_iff (op : Word) : decode op = .ok .cls ↔ op = 0x00E0 := by
  constructor
  · intro h
    have h0 := decode_family0 (fieldN3_of_decode_eq_cls h)
    exact (decodeFamily0_eq_cls_iff op).mp (Except.ok.inj (h0.symm.trans h))
  · rintro rfl
    rfl

/-! ### The execute phase -/

theorem exec_cls (s : State) :
    exec .cls s = .next { s with disp := Display.blank, frame := some Display.blank } := rfl

/-! ### The obligation -/

/-- Settles O43: the word by the decoder's families, the cells by the blank display that the instruction writes and puts out. -/
theorem clsClearsEveryCell : Obligations.ClsClearsEveryCell := by
  unfold Obligations.ClsClearsEveryCell
  exact ⟨decode_eq_cls_iff, fun s => ⟨_, exec_cls s, rfl, fun px py _ _ => cell_blank px py⟩⟩

end Sys2Proof.Machine

/-! The encoding: the round trip in both directions, the illegal words, and the obligations about them (30_encoding.md R71 to
R81). -/

namespace Sys2Proof.Machine

/-! ### From an instruction to its word and back -/

/-- A `SYS` other than the two words that are `CLS` and `RET` (R77). -/
theorem decode_formatA_zero {nnn : Addr} (hE0 : nnn ≠ 0x0E0) (hEE : nnn ≠ 0x0EE) :
    decode (formatA 0x0 nnn) = .ok (.sys nnn) := by
  have hne {a : Addr} (ha : nnn ≠ a) : formatA 0x0 nnn ≠ formatA 0x0 a := fun h =>
    ha (by rw [← fieldNNN_formatA 0x0 nnn, h, fieldNNN_formatA])
  rw [decode_family0 (fieldN3_formatA 0x0 nnn), decodeFamily0, if_neg (show _ ≠ (0x00E0 : Word) from hne hE0),
    if_neg (show _ ≠ (0x00EE : Word) from hne hEE), fieldNNN_formatA]

/-- The decoder reads the family, then the sub-opcode and the operands, off the format that the encoder wrote. -/
theorem decode_encode {i : Instr} (hw : i.wellFormed = true) : decode (encode i) = .ok i := by
  cases i with
  | cls | ret => rfl
  | sys nnn =>
    simp only [Instr.wellFormed, Bool.and_eq_true, bne_iff_ne] at hw
    exact decode_formatA_zero hw.1 hw.2
  | jp nnn => simp [encode, decode_family1, fieldN3_formatA, fieldNNN_formatA]
  | call nnn => simp [encode, decode_family2, fieldN3_formatA, fieldNNN_formatA]
  | ldI nnn => simp [encode, decode_familyA, fieldN3_formatA, fieldNNN_formatA]
  | jpV0 nnn => simp [encode, decode_familyB, fieldN3_formatA, fieldNNN_formatA]
  | seImm x kk => simp [encode, decode_family3, fieldN3_formatXK, fieldX_formatXK, fieldKK_formatXK]
  | sneImm x kk => simp [encode, decode_family4, fieldN3_formatXK, fieldX_formatXK, fieldKK_formatXK]
  | ldImm x kk => simp [encode, decode_family6, fieldN3_formatXK, fieldX_formatXK, fieldKK_formatXK]
  | addImm x kk => simp [encode, decode_family7, fieldN3_formatXK, fieldX_formatXK, fieldKK_formatXK]
  | rnd x kk => simp [encode, decode_familyC, fieldN3_formatXK, fieldX_formatXK, fieldKK_formatXK]
  | seReg x y =>
    simp [encode, decode_family5, fieldN3_formatXYN, fieldX_formatXYN, fieldY_formatXYN, fieldN_formatXYN]
  | sneReg x y =>
    simp [encode, decode_family9, fieldN3_formatXYN, fieldX_formatXYN, fieldY_formatXYN, fieldN_formatXYN]
  | drw x y n =>
    simp [encode, decode_familyD, fieldN3_formatXYN, fieldX_formatXYN, fieldY_formatXYN, fieldN_formatXYN]
  | ldReg x y | orReg x y | andReg x y | xorReg x y | addReg x y | sub x y | subn x y | shr x | shl x =>
    simp [encode, decode_family8, decodeFamily8, fieldN3_formatXYN, fieldX_formatXYN, fieldY_formatXYN,
      fieldN_formatXYN]
  | skp x | sknp x =>
    simp [encode, decode_familyE, decodeFamilyE, fieldN3_formatXK, fieldX_formatXK, fieldKK_formatXK]
  | ldVxDt x | ldVxK x | ldDtVx x | ldStVx x | addI x | ldF x | ldB x | stRegs x | ldRegs x =>
    simp [encode, decode_familyF, decodeFamilyF, fieldN3_formatXK, fieldX_formatXK, fieldKK_formatXK]

/-! ### From a word to its instruction and back -/

theorem formatA_fields {op : Word} {n3 : BitVec 4} (h : fieldN3 op = n3) : formatA n3 (fieldNNN op) = op := by
  rw [← h, ← eq_formatA]

theorem formatXK_fields {op : Word} {n3 : BitVec 4} {kk : Byte} (h : fieldN3 op = n3) (hk : fieldKK op = kk) :
    formatXK n3 (fieldX op) kk = op := by
  rw [← h, ← hk, ← eq_formatXK]

theorem formatXYN_fields {op : Word} {n3 : BitVec 4} {n : Count} (h : fieldN3 op = n3) (hn : fieldN op = n) :
    formatXYN n3 (fieldX op) (fieldY op) n = op := by
  rw [← h, ← hn, ← eq_formatXYN]

theorem formatXYN_and (a b : BitVec 4) (x x' y y' : RegIx) (n n' : Count) :
    formatXYN a x y n &&& formatXYN b x' y' n' = formatXYN (a &&& b) (x &&& x') (y &&& y') (n &&& n') := by
  refine (BitVec.and_append (x₁ := a ++ x ++ y) (x₂ := b ++ x' ++ y') (y₁ := n) (y₂ := n')).trans ?_
  rw [BitVec.and_append, BitVec.and_append]; rfl

/-- The word with its y cleared: what the encoder writes for `SHR` and `SHL` (log 32). -/
theorem formatXYN_fields_zero_y {op : Word} {n3 : BitVec 4} {n : Count} (h : fieldN3 op = n3) (hn : fieldN op = n) :
    formatXYN n3 (fieldX op) 0x0 n = op &&& 0xFF0F := by
  have hm : (0xFF0F : Word) = formatXYN (BitVec.allOnes 4) (BitVec.allOnes 4) 0x0 (BitVec.allOnes 4) := rfl
  conv_rhs => rw [← formatXYN_fields h hn, hm, formatXYN_and]
  simp only [BitVec.and_allOnes, BitVec.and_zero, BitVec.ofNat_eq_ofNat]

/-- The word the encoder gives back for a word that decodes: its y is lost where it is `SHR` or `SHL` (R79, R81; log 32). -/
def reencoded (op : Word) : Word :=
  if fieldN3 op = 0x8 ∧ (fieldN op = 0x6 ∨ fieldN op = 0xE) then op &&& 0xFF0F else op

theorem reencoded_of_family_ne {op : Word} (h : fieldN3 op ≠ 0x8) : reencoded op = op :=
  if_neg fun hc => h hc.1

theorem fieldNNN_ne_of_ne {op : Word} {nnn : Addr} (h0 : fieldN3 op = 0x0) (h : op ≠ formatA 0x0 nnn) :
    fieldNNN op ≠ nnn := fun hn => h (by rw [← hn, formatA_fields h0])

theorem encode_decodeFamily0 {op : Word} (h0 : fieldN3 op = 0x0) :
    (decodeFamily0 op).wellFormed = true ∧ encode (decodeFamily0 op) = op := by
  unfold decodeFamily0
  split
  · next h => exact ⟨rfl, h.symm⟩
  split
  · next h => exact ⟨rfl, h.symm⟩
  next hE0 hEE =>
    refine ⟨?_, formatA_fields h0⟩
    simp only [Instr.wellFormed, Bool.and_eq_true, bne_iff_ne]
    exact ⟨fieldNNN_ne_of_ne h0 hE0, fieldNNN_ne_of_ne h0 hEE⟩

theorem encode_of_decodeFamily8 {op : Word} {i : Instr} (h8 : fieldN3 op = 0x8) (h : decodeFamily8 op = .ok i) :
    i.wellFormed = true ∧ encode i = reencoded op := by
  unfold decodeFamily8 at h
  split at h
  case h_7 h6 =>
    cases h
    exact ⟨rfl, by rw [reencoded, if_pos ⟨h8, .inl h6⟩]; exact formatXYN_fields_zero_y h8 h6⟩
  case h_9 hE =>
    cases h
    exact ⟨rfl, by rw [reencoded, if_pos ⟨h8, .inr hE⟩]; exact formatXYN_fields_zero_y h8 hE⟩
  case h_10 => cases h
  all_goals
    next hn =>
    cases h
    exact ⟨rfl, by rw [reencoded, if_neg (by simp [hn])]; exact formatXYN_fields h8 hn⟩

theorem encode_of_decodeFamilyE {op : Word} {i : Instr} (hE : fieldN3 op = 0xE) (h : decodeFamilyE op = .ok i) :
    i.wellFormed = true ∧ encode i = op := by
  unfold decodeFamilyE at h
  split at h
  case h_3 => cases h
  all_goals
    next hk => cases h; exact ⟨rfl, formatXK_fields hE hk⟩

theorem encode_of_decodeFamilyF {op : Word} {i : Instr} (hF : fieldN3 op = 0xF) (h : decodeFamilyF op = .ok i) :
    i.wellFormed = true ∧ encode i = op := by
  unfold decodeFamilyF at h
  split at h
  case h_10 => cases h
  all_goals
    next hk => cases h; exact ⟨rfl, formatXK_fields hF hk⟩

theorem nibble_cases (f : BitVec 4) :
    f = 0x0 ∨ f = 0x1 ∨ f = 0x2 ∨ f = 0x3 ∨ f = 0x4 ∨ f = 0x5 ∨ f = 0x6 ∨ f = 0x7 ∨
      f = 0x8 ∨ f = 0x9 ∨ f = 0xA ∨ f = 0xB ∨ f = 0xC ∨ f = 0xD ∨ f = 0xE ∨ f = 0xF := by
  revert f; decide

theorem encode_of_decode {op : Word} {i : Instr} (h : decode op = .ok i) :
    i.wellFormed = true ∧ encode i = reencoded op := by
  by_cases h8 : fieldN3 op = 0x8
  · exact encode_of_decodeFamily8 h8 (decode_family8 h8 ▸ h)
  rw [reencoded_of_family_ne h8]
  rcases nibble_cases (fieldN3 op) with hf | hf | hf | hf | hf | hf | hf | hf | hf | hf | hf | hf | hf | hf | hf | hf
  · rw [decode_family0 hf] at h; cases h; exact encode_decodeFamily0 hf
  · rw [decode_family1 hf] at h; cases h; exact ⟨rfl, formatA_fields hf⟩
  · rw [decode_family2 hf] at h; cases h; exact ⟨rfl, formatA_fields hf⟩
  · rw [decode_family3 hf] at h; cases h; exact ⟨rfl, formatXK_fields hf rfl⟩
  · rw [decode_family4 hf] at h; cases h; exact ⟨rfl, formatXK_fields hf rfl⟩
  · rw [decode_family5 hf] at h
    split at h <;> cases h
    next hn => exact ⟨rfl, formatXYN_fields hf hn⟩
  · rw [decode_family6 hf] at h; cases h; exact ⟨rfl, formatXK_fields hf rfl⟩
  · rw [decode_family7 hf] at h; cases h; exact ⟨rfl, formatXK_fields hf rfl⟩
  · exact absurd hf h8
  · rw [decode_family9 hf] at h
    split at h <;> cases h
    next hn => exact ⟨rfl, formatXYN_fields hf hn⟩
  · rw [decode_familyA hf] at h; cases h; exact ⟨rfl, formatA_fields hf⟩
  · rw [decode_familyB hf] at h; cases h; exact ⟨rfl, formatA_fields hf⟩
  · rw [decode_familyC hf] at h; cases h; exact ⟨rfl, formatXK_fields hf rfl⟩
  · rw [decode_familyD hf] at h; cases h; exact ⟨rfl, formatXYN_fields hf rfl⟩
  · exact encode_of_decodeFamilyE hf (decode_familyE hf ▸ h)
  · exact encode_of_decodeFamilyF hf (decode_familyF hf ▸ h)

/-! ### Illegal words (R76) -/

theorem decodeFamily8_error_iff (op : Word) :
    (∃ e, decodeFamily8 op = .error e) ↔ fieldN op ∈ [0x8, 0x9, 0xA, 0xB, 0xC, 0xD, 0xF] := by
  rcases nibble_cases (fieldN op) with h | h | h | h | h | h | h | h | h | h | h | h | h | h | h | h <;>
    simp [decodeFamily8, h]

theorem decodeFamilyE_error_iff (op : Word) :
    (∃ e, decodeFamilyE op = .error e) ↔ fieldKK op ∉ [0x9E, 0xA1] := by
  unfold decodeFamilyE
  split <;> simp_all

theorem decodeFamilyF_error_iff (op : Word) :
    (∃ e, decodeFamilyF op = .error e) ↔ fieldKK op ∉ [0x07, 0x0A, 0x15, 0x18, 0x1E, 0x29, 0x33, 0x55, 0x65] := by
  unfold decodeFamilyF
  split <;> simp_all

theorem decode_error_iff (op : Word) :
    (∃ e, decode op = .error e) ↔
      (fieldN3 op = 0x5 ∧ fieldN op ≠ 0) ∨ (fieldN3 op = 0x9 ∧ fieldN op ≠ 0) ∨
      (fieldN3 op = 0x8 ∧ fieldN op ∈ [0x8, 0x9, 0xA, 0xB, 0xC, 0xD, 0xF]) ∨
      (fieldN3 op = 0xE ∧ fieldKK op ∉ [0x9E, 0xA1]) ∨
      (fieldN3 op = 0xF ∧ fieldKK op ∉ [0x07, 0x0A, 0x15, 0x18, 0x1E, 0x29, 0x33, 0x55, 0x65]) := by
  rw [← decodeFamily8_error_iff, ← decodeFamilyE_error_iff, ← decodeFamilyF_error_iff]
  rcases nibble_cases (fieldN3 op) with hf | hf | hf | hf | hf | hf | hf | hf | hf | hf | hf | hf | hf | hf | hf | hf
  · simp [hf, decode_family0 hf]
  · simp [hf, decode_family1 hf]
  · simp [hf, decode_family2 hf]
  · simp [hf, decode_family3 hf]
  · simp [hf, decode_family4 hf]
  · by_cases hn : fieldN op = 0
    · simp [hf, decode_family5 hf, hn]
    · rw [decode_family5 hf, if_neg hn]; simpa [hf] using hn
  · simp [hf, decode_family6 hf]
  · simp [hf, decode_family7 hf]
  · simp [hf, decode_family8 hf]
  · by_cases hn : fieldN op = 0
    · simp [hf, decode_family9 hf, hn]
    · rw [decode_family9 hf, if_neg hn]; simpa [hf] using hn
  · simp [hf, decode_familyA hf]
  · simp [hf, decode_familyB hf]
  · simp [hf, decode_familyC hf]
  · simp [hf, decode_familyD hf]
  · simp [hf, decode_familyE hf]
  · simp [hf, decode_familyF hf]

/-! ### The obligations -/

/-- Settles O1: each format gives its fields back, and the decoder reads nothing else. -/
theorem decodeOfEncodeIsTheInstruction : Obligations.DecodeOfEncodeIsTheInstruction := by
  unfold Obligations.DecodeOfEncodeIsTheInstruction
  exact fun _ => decode_encode

/-- Settles O2: family by family, the encoder writes the fields that the decoder read, but for the y of `SHR` and `SHL`. -/
theorem decodedWordsEncodeBack : Obligations.DecodedWordsEncodeBack := by
  unfold Obligations.DecodedWordsEncodeBack
  exact fun _ _ => encode_of_decode

/-- Settles O3: family by family, the words without an instruction. -/
theorem illegalWordsAreExactlyTheListed : Obligations.IllegalWordsAreExactlyTheListed := by
  unfold Obligations.IllegalWordsAreExactlyTheListed
  exact fun op => ⟨decode_error_iff op, fun _ => decode_error⟩

/-- Settles O4: each word by evaluation of the decoder. -/
theorem sampleWordsDecodeAsTabled : Obligations.SampleWordsDecodeAsTabled := by
  unfold Obligations.SampleWordsDecodeAsTabled
  exact ⟨rfl, rfl, rfl, rfl, rfl, rfl, rfl, rfl, rfl, rfl, rfl, rfl⟩

end Sys2Proof.Machine

/-! The step around the execute phase: what a step answers for a decoded word, its faults, the timer phase, the fetch, and the
obligations about them (40_step_cycle.md R101 to R110; 60_exceptions.md R220 to R235, R247; 41_control_transfer.md R121). -/

namespace Sys2Proof.Machine

/-! ### What the execute phase can answer -/

theorem exec_call_of_lt (nnn : Addr) {s : State} (h : s.sp.val < 16) :
    exec (.call nnn) s = .next ((s.push s.pc h).setPc (zextAddr nnn)) := dif_pos h

theorem exec_call_full (nnn : Addr) {s : State} (h : s.sp.val = 16) :
    exec (.call nnn) s = .fault (.stackFault .overflow) := dif_neg (by omega)

theorem exec_ret_of_ne {s : State} (h : s.sp.val ≠ 0) : exec .ret s = .next (s.pop.setPc (s.top h)) := dif_pos h

theorem exec_ret_empty {s : State} (h : s.sp.val = 0) : exec .ret s = .fault (.stackFault .underflow) :=
  dif_neg (not_not.mpr h)

/-- A `CALL` that has a next state found room on the stack. -/
theorem sp_lt_of_exec_call {nnn : Addr} {s t : State} (h : exec (.call nnn) s = .next t) : s.sp.val < 16 := by
  by_contra hn
  rw [exec_call_full nnn (by omega)] at h
  cases h

/-- A `RET` that has a next state found a live entry. -/
theorem sp_ne_of_exec_ret {s t : State} (h : exec .ret s = .next t) : s.sp.val ≠ 0 := by
  intro h0
  rw [exec_ret_empty h0] at h
  cases h

/-- A pushed word is the entry at the old `SP`, and every other entry stays. -/
theorem push_stack_getElem (s : State) (w : Word) (h : s.sp.val < 16) (k : Fin 16) :
    (s.push w h).stack[k] = if k.val = s.sp.val then w else s.stack[k] := by
  simp only [push_stack, Fin.getElem_fin, Vector.getElem_set, eq_comm]

/-- The entry that a pop reads. -/
theorem top_eq {s : State} (h : s.sp.val ≠ 0) {k : Fin 16} (hk : s.sp.val = k.val + 1) : s.top h = s.stack[k] := by
  simp [State.top, hk]

/-- Every instruction has a next state, but for a `CALL` with a full stack and a `RET` with an empty one. -/
theorem exec_cases (i : Instr) (s : State) :
    (∃ t, exec i s = .next t) ∨ ((∃ nnn, i = .call nnn) ∧ s.sp.val = 16 ∧ exec i s = .fault (.stackFault .overflow)) ∨
      (i = .ret ∧ s.sp.val = 0 ∧ exec i s = .fault (.stackFault .underflow)) := by
  cases i
  case call nnn =>
    by_cases h : s.sp.val < 16
    · exact .inl ⟨_, exec_call_of_lt nnn h⟩
    · have h16 : s.sp.val = 16 := by omega
      exact .inr (.inl ⟨⟨nnn, rfl⟩, h16, exec_call_full nnn h16⟩)
  case ret =>
    by_cases h : s.sp.val = 0
    · exact .inr (.inr ⟨rfl, h, exec_ret_empty h⟩)
    · exact .inl ⟨_, exec_ret_of_ne h⟩
  all_goals exact .inl ⟨_, rfl⟩

theorem exec_fault_iff (i : Instr) (s : State) (f : Fault) :
    exec i s = .fault f ↔
      ((∃ nnn, i = .call nnn) ∧ s.sp.val = 16 ∧ f = .stackFault .overflow) ∨
      (i = .ret ∧ s.sp.val = 0 ∧ f = .stackFault .underflow) := by
  constructor
  · intro h
    rcases exec_cases i s with ⟨t, ht⟩ | ⟨hi, hsp, hf⟩ | ⟨hi, hsp, hf⟩
    · cases ht.symm.trans h
    · cases hf.symm.trans h; exact .inl ⟨hi, hsp, rfl⟩
    · cases hf.symm.trans h; exact .inr ⟨hi, hsp, rfl⟩
  · rintro (⟨⟨nnn, rfl⟩, hsp, rfl⟩ | ⟨rfl, hsp, rfl⟩)
    · exact exec_call_full nnn hsp
    · exact exec_ret_empty hsp

theorem exec_ne_refused (i : Instr) (s : State) (r : Refusal) : exec i s ≠ .refused r := by
  intro h
  rcases exec_cases i s with ⟨t, ht⟩ | ⟨-, -, hf⟩ | ⟨-, -, hf⟩
  · cases ht.symm.trans h
  · cases hf.symm.trans h
  · cases hf.symm.trans h

/-! ### What a step answers -/

theorem step_of_decode {s : State} {i : Instr} (hd : decode s.fetchWord = .ok i) :
    step s = mapNext State.endStep (exec i s.beginStep) := by
  unfold step
  rw [hd]
  cases h : exec i s.beginStep <;> simp only [h, mapNext, raise]

theorem step_of_decode_error {s : State} {e : DecodeError} (hd : decode s.fetchWord = .error e) :
    step s = .fault (.decodeError s.fetchWord s.pc) := by
  unfold step
  rw [hd]
  rfl

/-- A decoded instruction whose execute phase answers a next state. -/
theorem step_of_exec_next {s u : State} {i : Instr} (hd : decode s.fetchWord = .ok i)
    (he : exec i s.beginStep = .next u) : step s = .next u.endStep := by
  rw [step_of_decode hd, he]; rfl

theorem mapNext_eq_fault_iff (g : State → State) (o : Host.Outcome State Fault Refusal) (f : Fault) :
    mapNext g o = .fault f ↔ o = .fault f := by
  cases o <;> simp [mapNext]

theorem mapNext_eq_refused_iff (g : State → State) (o : Host.Outcome State Fault Refusal) (r : Refusal) :
    mapNext g o = .refused r ↔ o = .refused r := by
  cases o <;> simp [mapNext]

theorem step_fault_iff (s : State) (f : Fault) :
    step s = .fault f ↔
      (decode s.fetchWord = .error (.illegal s.fetchWord) ∧ f = .decodeError s.fetchWord s.pc) ∨
      ((∃ nnn, decode s.fetchWord = .ok (.call nnn)) ∧ s.sp.val = 16 ∧ f = .stackFault .overflow) ∨
      (decode s.fetchWord = .ok .ret ∧ s.sp.val = 0 ∧ f = .stackFault .underflow) := by
  cases hd : decode s.fetchWord with
  | error e =>
    obtain rfl := decode_error hd
    rw [step_of_decode_error hd]
    simp [eq_comm]
  | ok i =>
    rw [step_of_decode hd, mapNext_eq_fault_iff, exec_fault_iff]
    simp

/-! ### The timer phase and what surrounds the instruction -/

theorem timersAt_of_eq {s : State} {p : TimerPhase} (h : s.timerPhase = p) : s.timersAt p = s.runTimers := if_pos h

theorem timersAt_of_ne {s : State} {p : TimerPhase} (h : s.timerPhase ≠ p) : s.timersAt p = s := if_neg h

theorem beginStep_eq (s : State) :
    s.beginStep =
      { s.timersAt .beforeFetch with pc := BitVec.ofNat 16 ((s.pc.toNat + 2) % 4096), frame := none } := by
  rw [← mask12_add_two]; rfl

theorem endStep_eq (s : State) :
    s.endStep = (s.timersAt .afterExecute).withInputs s.inputs.tail (s.inputIndex + 1) := by
  simp only [State.endStep, State.nextInputs, State.withInputs, timersAt_inputs, timersAt_inputIndex]

/-- What a step does besides the instruction: the timer phase runs once, wherever `TIMER_PHASE` puts it. -/
theorem endStep_beginStep (s : State) :
    s.beginStep.endStep = { s.runTimers.withInputs s.inputs.tail (s.inputIndex + 1) with
      pc := BitVec.ofNat 16 ((s.pc.toNat + 2) % 4096), frame := none } := by
  rw [endStep_eq, beginStep_inputs, beginStep_inputIndex]
  cases hp : s.timerPhase with
  | afterExecute =>
    rw [timersAt_of_eq (by simpa using hp), beginStep_eq, timersAt_of_ne (by simp [hp])]; rfl
  | beforeFetch =>
    rw [timersAt_of_ne (by simp [hp]), beginStep_eq, timersAt_of_eq hp]; rfl

/-- A step's end leaves everything but the timers and the inputs. -/
theorem endStep_frame_eq (s : State) :
    s.endStep = { s with dt := s.endStep.dt, st := s.endStep.st, acc := s.endStep.acc, inputs := s.inputs.tail,
                         inputIndex := s.inputIndex + 1 } := by
  rw [endStep_eq]
  unfold State.timersAt
  split <;> rfl

/-! ### The fetch -/

theorem fetchWord_eq (s : State) : s.fetchWord = s.memRead s.pc.toNat ++ s.memRead (s.pc.toNat + 1) := rfl

theorem memRead_mod (s : State) (a : Nat) : s.memRead (a % 4096) = s.memRead a := by
  simp only [State.memRead, memSize, Nat.mod_mod]

theorem tableWord_sixteen (w : Nat) : tableWord 16 w = BitVec.ofNat 16 w :=
  BitVec.eq_of_toNat_eq (by rw [tableWord, BitVec.toNat_ofNat, BitVec.toNat_ofNat, Nat.mod_mod])

theorem fetchWord_withFetchWord {s : State} (h : Memory.wf s.mem) (w : Nat) :
    (s.withFetchWord 16 w).fetchWord = BitVec.ofNat 16 w := by
  have hpc : (s.withFetchWord 16 w).pc = s.pc := rfl
  have hhi : (s.withFetchWord 16 w).memRead s.pc.toNat = hiByte (tableWord 16 w) := by
    rw [State.withFetchWord, memRead_memWrite (memWrite_wf h _ _), if_neg (by omega), memRead_memWrite h, if_pos rfl]
  have hlo : (s.withFetchWord 16 w).memRead (s.pc.toNat + 1) = loByte (tableWord 16 w) := by
    rw [State.withFetchWord, memRead_memWrite (memWrite_wf h _ _), if_pos rfl]
  rw [State.fetchWord, hpc, hhi, hlo, wordOfBytes_hi_lo, tableWord_sixteen]

/-! ### The obligations -/

/-- Settles O5: the two matches of the step, for a word that decodes. -/
theorem stepRunsTheDecodedInstruction : Obligations.StepRunsTheDecodedInstruction := by
  unfold Obligations.StepRunsTheDecodedInstruction
  exact fun _ _ => step_of_decode

/-- Settles O6: in each case one of the two timer phases runs and the other does nothing. -/
theorem whatSurroundsTheExecutePhase : Obligations.WhatSurroundsTheExecutePhase := by
  unfold Obligations.WhatSurroundsTheExecutePhase
  refine fun s => ⟨fetchWord_eq s, fun hp => ⟨?_, ?_⟩, fun hp => ⟨?_, ?_⟩⟩
  · rw [beginStep_eq, timersAt_of_ne (by simp [hp])]
  · rw [endStep_eq, timersAt_of_eq hp]
  · rw [beginStep_eq, timersAt_of_eq hp]
  · rw [endStep_eq, timersAt_of_ne (by simp [hp])]

/-- Settles O7: no instruction's execute phase is refused. -/
theorem noStepIsRefused : Obligations.NoStepIsRefused := by
  unfold Obligations.NoStepIsRefused
  intro s r h
  cases hd : decode s.fetchWord with
  | error e => rw [step_of_decode_error hd] at h; cases h
  | ok i => rw [step_of_decode hd, mapNext_eq_refused_iff] at h; exact exec_ne_refused i _ r h

/-- Settles O8: by the decoder's answer, then by the faults of the execute phase. -/
theorem stepFaultsExactlyAsListed : Obligations.StepFaultsExactlyAsListed := by
  unfold Obligations.StepFaultsExactlyAsListed
  exact step_fault_iff

/-- Settles O9: the conditions of a fault speak of memory, `PC` and `SP` alone. -/
theorem faultRepeatsWhateverTheInputs : Obligations.FaultRepeatsWhateverTheInputs := by
  unfold Obligations.FaultRepeatsWhateverTheInputs
  exact fun s f l n h => (step_fault_iff (s.withInputs l n) f).mpr ((step_fault_iff s f).mp h)

/-- Settles O10: the two bytes lie at different addresses, so each is read back. -/
theorem placedWordIsFetched : Obligations.PlacedWordIsFetched := by
  unfold Obligations.PlacedWordIsFetched
  exact fun _ w hwf _ => fetchWord_withFetchWord hwf w

/-- Settles O17: the reductions by the access primitives, the write by read after write in canonical memory. -/
theorem memoryPrimitivesReduceAddresses : Obligations.MemoryPrimitivesReduceAddresses := by
  unfold Obligations.MemoryPrimitivesReduceAddresses
  refine fun s => ⟨fun a => (memRead_mod s a).symm, ?_, fun hwf a b => ⟨memWrite_wf hwf a b, rfl, ?_⟩⟩
  · rw [memRead_mod, memRead_mod, fetchWord_eq]
  · exact fun c => memRead_memWrite hwf a c b

/-- Settles O23: the words by family 0 of the decoder, the step by what surrounds an execute phase that does nothing. -/
theorem sysDoesNothing : Obligations.SysDoesNothing := by
  unfold Obligations.SysDoesNothing
  refine ⟨fun op h0 hE0 hEE => ?_, rfl, fun _ _ => rfl, fun s nnn hd => ?_⟩
  · rw [decode_family0 h0, decodeFamily0, if_neg hE0, if_neg hEE]
  · rw [step_of_exec_next hd rfl, endStep_beginStep]

end Sys2Proof.Machine

/-! The invariants of every step boundary: one lemma per operation, then the execute phase, the step, and the obligation about
them (10_state.md R34). -/

namespace Sys2Proof.Machine

/-! ### The operations keep the invariants -/

section Operations

variable {s : State} (hs : Invariants s)
include hs

theorem Invariants.setV (x : RegIx) (b : Byte) : Invariants (s.setV x b) := { hs with }
theorem Invariants.setFlag (c : Bool) : Invariants (s.setFlag c) := { hs with }
theorem Invariants.setDisp (d : Display) : Invariants (s.setDisp d) := { hs with }
theorem Invariants.emitFrame : Invariants s.emitFrame := { hs with }
theorem Invariants.setDt (b : Byte) : Invariants (s.setDt b) := { hs with }
theorem Invariants.setSt (b : Byte) : Invariants (s.setSt b) := { hs with }
theorem Invariants.nextInputs : Invariants s.nextInputs := { hs with }

theorem Invariants.setPc (w : Word) : Invariants (s.setPc w) := { hs with pc_lt := mask12_lt w }

theorem Invariants.setIndex (w : Word) : Invariants (s.setIndex w) := { hs with index_lt := mask12_lt w }

theorem Invariants.skipIf (c : Bool) : Invariants (s.skipIf c) := by
  cases c
  · exact hs
  · exact hs.setPc (s.pc + 2)

theorem Invariants.memWrite (a : Nat) (b : Byte) : Invariants (s.memWrite a b) :=
  { hs with mem_wf := memWrite_wf hs.mem_wf a b }

theorem Invariants.storeRegs (count : Nat) : Invariants (s.storeRegs count) := by
  rw [storeRegs_eq]
  exact { hs with mem_wf := storeRegs_wf hs.mem_wf count }

theorem Invariants.loadBytes (a : Nat) (bs : List Byte) : Invariants (s.loadBytes a bs) := by
  rw [loadBytes_eq]
  exact { hs with mem_wf := loadBytes_wf hs.mem_wf a bs }

theorem Invariants.loadRegs (count : Nat) : Invariants (s.loadRegs count) := by
  rw [loadRegs_eq]
  exact { hs with }

/-- The entry pushed is a 12-bit value, and the live entries below it are as before. -/
theorem Invariants.push {w : Word} (hw : w.toNat < 4096) (h : s.sp.val < 16) : Invariants (s.push w h) where
  pc_lt := hs.pc_lt
  index_lt := hs.index_lt
  acc_pos := hs.acc_pos
  acc_le := hs.acc_le
  mem_wf := hs.mem_wf
  stack_lt k hk := by
    have hk' : k.val < s.sp.val + 1 := hk
    rw [push_stack_getElem]
    split
    · exact hw
    · exact hs.stack_lt k (by omega)

/-- The entries that stay live after a pop were live before. -/
theorem Invariants.pop : Invariants s.pop :=
  { hs with stack_lt := fun k hk => hs.stack_lt k (Nat.lt_of_lt_of_le hk (Nat.sub_le _ _)) }

theorem Invariants.timersAt (p : TimerPhase) : Invariants (s.timersAt p) := by
  obtain ⟨hpos, hle⟩ := timersAt_acc_bounds p hs.acc_pos hs.acc_le
  exact
    { pc_lt := by simpa using hs.pc_lt
      index_lt := by simpa using hs.index_lt
      stack_lt := by simpa using hs.stack_lt
      acc_pos := hpos
      acc_le := by simpa using hle
      mem_wf := by simpa using hs.mem_wf }

theorem Invariants.beginStep : Invariants s.beginStep :=
  { hs.timersAt .beforeFetch with pc_lt := mask12_lt (s.pc + 2) }

theorem Invariants.endStep : Invariants s.endStep := (hs.timersAt .afterExecute).nextInputs

/-! ### The execute phase keeps the invariants -/

theorem Invariants.exec {t : State} {i : Instr} (h : exec i s = .next t) : Invariants t := by
  cases i
  case cls => cases h; exact (hs.setDisp _).emitFrame
  case drw => cases h; exact ((hs.setFlag _).setDisp _).emitFrame
  case sys => cases h; exact hs
  case ret =>
    have hne := sp_ne_of_exec_ret h
    cases (exec_ret_of_ne hne).symm.trans h
    exact hs.pop.setPc _
  case call nnn =>
    have hlt := sp_lt_of_exec_call h
    cases (exec_call_of_lt nnn hlt).symm.trans h
    exact (hs.push hs.pc_lt hlt).setPc _
  case jp | jpV0 => cases h; exact hs.setPc _
  case seImm | sneImm | seReg | sneReg | skp | sknp => cases h; exact hs.skipIf _
  case ldImm | addImm | ldReg | orReg | andReg | xorReg | rnd | ldVxDt => cases h; exact hs.setV _ _
  case addReg | sub | subn => cases h; exact (hs.setV _ _).setFlag _
  case shr | shl => cases h; exact (hs.setFlag _).setV _ _
  case ldVxK x =>
    cases h
    split
    · exact hs.setPc _
    · exact hs.setV x _
  case ldI | addI | ldF => cases h; exact hs.setIndex _
  case ldDtVx => cases h; exact hs.setDt _
  case ldStVx => cases h; exact hs.setSt _
  case ldB => cases h; exact ((hs.memWrite _ _).memWrite _ _).memWrite _ _
  case stRegs => cases h; exact hs.storeRegs _
  case ldRegs => cases h; exact hs.loadRegs _

theorem Invariants.step {t : State} (h : step s = .next t) : Invariants t := by
  obtain ⟨i, u, -, hu, rfl⟩ := step_next_cases h
  exact (hs.beginStep.exec hu).endStep

end Operations

/-! ### The obligation -/

/-- Settles O13: what precedes the execute phase, each instruction, and what follows keep the invariants. -/
theorem stepKeepsTheInvariants : Obligations.StepKeepsTheInvariants := by
  unfold Obligations.StepKeepsTheInvariants
  exact fun _ _ hs h => hs.step h

end Sys2Proof.Machine

/-! Construction and reset: what `construct` answers, what the constructed memory holds, and the obligations about them
(10_state.md R40; 70_reset_and_hazards.md R260 to R263). -/

namespace Sys2Proof.Machine

section Construction

variable (hz : Nat) (phase : TimerPhase) (font : Vector Byte 80) (image : List Byte)

/-- The machine that a successful construction answers. -/
def constructed : State := ((State.fresh hz phase).loadBytes fontBase font.toList).loadBytes progBase image

/-! ### What construction answers -/

theorem construct_of_long (h : 3584 < image.length) :
    construct hz phase font image = .fault (.loadError image.length) := if_pos h

theorem construct_of_clock_zero (h : image.length ≤ 3584) : construct 0 phase font image = .refused .clockZero :=
  if_neg (Nat.not_lt.mpr h)

theorem construct_of_fits (hpos : 0 < hz) (h : image.length ≤ 3584) :
    construct hz phase font image = .next (constructed hz phase font image) :=
  (if_neg (Nat.not_lt.mpr h)).trans (if_neg (by omega))

theorem construct_cases :
    (3584 < image.length ∧ construct hz phase font image = .fault (.loadError image.length)) ∨
      (image.length ≤ 3584 ∧ hz = 0 ∧ construct hz phase font image = .refused .clockZero) ∨
      (image.length ≤ 3584 ∧ 0 < hz ∧ construct hz phase font image = .next (constructed hz phase font image)) := by
  by_cases hlen : 3584 < image.length
  · exact .inl ⟨hlen, construct_of_long hz phase font image hlen⟩
  have hle : image.length ≤ 3584 := by omega
  rcases Nat.eq_zero_or_pos hz with rfl | hpos
  · exact .inr (.inl ⟨hle, rfl, construct_of_clock_zero phase font image hle⟩)
  · exact .inr (.inr ⟨hle, hpos, construct_of_fits hz phase font image hpos hle⟩)

/-! ### The constructed memory -/

/-- Before font and image are copied in, memory holds the default font. -/
theorem fresh_memRead {a : Nat} (ha : a < 4096) : (State.fresh hz phase).memRead a = Memory.unlisted a := by
  simp only [State.memRead, memSize, Nat.mod_eq_of_lt ha]; rfl

theorem unlisted_off_font {a : Nat} (h : ¬(0x050 ≤ a ∧ a < 0x0A0)) : Memory.unlisted a = 0 := by
  unfold Memory.unlisted
  split
  · next hge =>
    have hge : 0x050 ≤ a := hge
    rw [List.getD_eq_default]
    rw [Vector.length_toList]
    change 80 ≤ a - 0x050
    omega
  · rfl

/-- The image lies above the font, so each byte comes from one of them or is as it was before both. -/
theorem constructed_memRead (h : image.length ≤ 3584) {a : Nat} (ha : a < 4096) :
    (constructed hz phase font image).memRead a =
      if 0x200 ≤ a ∧ a < 0x200 + image.length then image.getD (a - 0x200) 0
      else if 0x050 ≤ a ∧ a < 0x0A0 then font.toList.getD (a - 0x050) 0 else 0 := by
  have hf : (State.fresh hz phase).mem.wf := reset_mem_wf
  rw [constructed, memRead_loadBytes (loadBytes_wf hf _ _) _ _ (by simp only [progBase]; omega) _ ha,
    memRead_loadBytes hf _ _ (by simp [fontBase]) _ ha, fresh_memRead hz phase ha]
  simp only [progBase, fontBase, Vector.length_toList, Nat.reduceAdd]
  split
  · rfl
  split
  · rfl
  next hn => exact unlisted_off_font hn

theorem constructed_memRead_font (h : image.length ≤ 3584) (k : Fin 80) :
    (constructed hz phase font image).memRead (0x050 + k.val) = font[k] := by
  rw [constructed_memRead hz phase font image h (by omega), if_neg (by omega), if_pos (by omega)]
  simp [List.getD_eq_getElem?_getD]

theorem constructed_memRead_image (h : image.length ≤ 3584) {k : Nat} (hk : k < image.length) :
    (constructed hz phase font image).memRead (0x200 + k) = image[k] := by
  rw [constructed_memRead hz phase font image h (by omega), if_pos (by omega)]
  simp [List.getD_eq_getElem?_getD, hk]

theorem constructed_memRead_elsewhere (h : image.length ≤ 3584) {a : Nat} (ha : a < 4096)
    (hf : ¬(0x050 ≤ a ∧ a < 0x0A0)) (hi : ¬(0x200 ≤ a ∧ a < 0x200 + image.length)) :
    (constructed hz phase font image).memRead a = 0 := by
  rw [constructed_memRead hz phase font image h ha, if_neg hi, if_neg hf]

/-! ### The other elements -/

/-- Construction writes memory alone in the fresh state. -/
theorem constructed_eq :
    constructed hz phase font image = { State.fresh hz phase with mem := (constructed hz phase font image).mem } := by
  rw [constructed, loadBytes_eq, loadBytes_eq (State.fresh hz phase)]

theorem fresh_getV (z : RegIx) : (State.fresh hz phase).getV z = 0 := Vector.getElem_replicate ..

theorem fresh_stack (k : Fin 16) : (State.fresh hz phase).stack[k] = 0 := Vector.getElem_replicate ..

/-! ### The default font over itself -/

/-- Writing what unlisted addresses read as to a memory that lists none changes nothing. -/
theorem loadBytes_unlisted {s : State} (hm : s.mem = []) {a : Nat} {bs : List Byte} (hlen : a + bs.length ≤ 4096)
    (h : ∀ k, (hk : k < bs.length) → bs[k] = Memory.unlisted (a + k)) : s.loadBytes a bs = s := by
  induction bs generalizing a with
  | nil => rfl
  | cons b bs ih =>
    simp only [List.length_cons] at hlen h
    have hb : b = Memory.unlisted a := h 0 (by omega)
    have hw : s.memWrite a b = s := by
      have : Memory.write [] (a % memSize) b = [] := by
        rw [memSize, Nat.mod_eq_of_lt (by omega)]; exact if_pos hb
      rw [State.memWrite, hm, this, ← hm]
    rw [State.loadBytes, hw]
    refine ih (by omega) fun k hk => ?_
    rw [show a + 1 + k = a + (k + 1) by omega]
    exact h (k + 1) (by omega)

theorem loadBytes_default_font : (State.fresh hz phase).loadBytes fontBase defaultFont.toList = State.fresh hz phase := by
  refine loadBytes_unlisted rfl (by decide) fun k hk => ?_
  rw [Memory.unlisted, if_pos (Nat.le_add_right _ _), Nat.add_sub_cancel_left, List.getD_eq_getElem _ _ hk]

/-! ### The invariants -/

theorem clockHz_pos : 0 < Config.clockHz := Nat.succ_pos Config.clockHzLessOne

variable {hz} in
theorem invariants_fresh (hpos : 0 < hz) : Invariants (State.fresh hz phase) where
  pc_lt := show (0x200 : Word).toNat < 4096 by decide
  index_lt := show (0 : Word).toNat < 4096 by decide
  stack_lt k _ := by rw [fresh_stack]; decide
  acc_pos := hpos
  acc_le := Nat.le_refl hz
  mem_wf := reset_mem_wf

end Construction

/-! ### The obligations -/

/-- Settles O11: the reset state is the fresh state of the free clock. -/
theorem invariantsAtReset : Obligations.InvariantsAtReset := by
  unfold Obligations.InvariantsAtReset
  exact invariants_fresh .afterExecute clockHz_pos

/-- Settles O12: the fresh state meets the invariants, and the two loads keep them. -/
theorem invariantsAtConstruction : Obligations.InvariantsAtConstruction := by
  unfold Obligations.InvariantsAtConstruction
  intro hz phase font image s h
  rcases construct_cases hz phase font image with ⟨-, hc⟩ | ⟨-, -, hc⟩ | ⟨-, hpos, hc⟩
  · cases hc.symm.trans h
  · cases hc.symm.trans h
  · cases hc.symm.trans h
    exact ((invariants_fresh phase hpos).loadBytes _ _).loadBytes _ _

/-- Settles O14: memory by reads after the two loads, every other element by the fresh state. -/
theorem constructionLoadsFontAndImage : Obligations.ConstructionLoadsFontAndImage := by
  unfold Obligations.ConstructionLoadsFontAndImage
  intro hz phase font image hpos hlen
  refine ⟨constructed hz phase font image, construct_of_fits hz phase font image hpos hlen,
    constructed_memRead_font hz phase font image hlen,
    fun _ hk => constructed_memRead_image hz phase font image hlen hk,
    fun _ ha => constructed_memRead_elsewhere hz phase font image hlen ha, ?_⟩
  rw [constructed_eq]
  exact ⟨fresh_getV hz phase, rfl, rfl, fresh_stack hz phase, rfl, fun px py _ _ => cell_blank px py,
    rfl, rfl, rfl, rfl, rfl, rfl, rfl, rfl⟩

/-- Settles O15: the three answers of construction exclude each other. -/
theorem loadErrorExactlyForLongImages : Obligations.LoadErrorExactlyForLongImages := by
  unfold Obligations.LoadErrorExactlyForLongImages
  intro hz phase font image
  rcases construct_cases hz phase font image with ⟨hlen, hc⟩ | ⟨hlen, hz0, hc⟩ | ⟨hlen, hpos, hc⟩
  · rw [hc]; simp [hlen, eq_comm]
  · rw [hc]; simp [hlen, hz0]
  · rw [hc]; simp [hlen, hpos.ne']

/-- Settles O16: the default font is what an empty memory reads as, and the image is empty. -/
theorem resetIsTheEmptyConstruction : Obligations.ResetIsTheEmptyConstruction := by
  unfold Obligations.ResetIsTheEmptyConstruction
  rw [construct_of_fits _ _ _ _ clockHz_pos (Nat.zero_le _), constructed, loadBytes_default_font]
  rfl

end Sys2Proof.Machine

/-! Calls, returns and the jump to self: the word of `RET`, the call stack under calls and returns, and the obligations about
them (41_control_transfer.md R122, R124, R131; 60_exceptions.md R247). -/

namespace Sys2Proof.Machine

/-! ### The word of `RET` -/

theorem decodeFamily8_ne_ret (op : Word) : decodeFamily8 op ≠ .ok .ret := by
  unfold decodeFamily8
  split <;> exact nofun

/-- `RET` has no word in family 8, so its word is the one the encoder gives back. -/
theorem decode_eq_ret_iff (op : Word) : decode op = .ok .ret ↔ op = 0x00EE := by
  constructor
  · intro h
    have h8 : fieldN3 op ≠ 0x8 := fun h8 => decodeFamily8_ne_ret op (decode_family8 h8 ▸ h)
    exact ((encode_of_decode h).2.trans (reencoded_of_family_ne h8)).symm
  · rintro rfl
    rfl

/-! ### Calls -/

theorem exec_call (nnn : Addr) {s : State} (h : s.sp.val < 16) :
    exec (.call nnn) s = .next { s.push s.pc h with pc := BitVec.ofNat 16 nnn.toNat } := by
  rw [exec_call_of_lt nnn h, ← mask12_zextAddr]; rfl

theorem exec_ret {s : State} (h : s.sp.val ≠ 0) :
    exec .ret s = .next { s.pop with pc := BitVec.ofNat 16 ((s.top h).toNat % 4096) } := by
  rw [exec_ret_of_ne h, ← mask12_eq_ofNat]; rfl

theorem callAll_cons_of_next {a : Addr} {rest : List Addr} {s t : State} (h : exec (.call a) s = .next t) :
    callAll (a :: rest) s = callAll rest t := by
  rw [callAll, h]

/-- Each call deepens the stack by one while there is room. -/
theorem callAll_of_le (l : List Addr) (s : State) (h : s.sp.val + l.length ≤ 16) :
    ∃ t, callAll l s = .next t ∧ t.sp.val = s.sp.val + l.length := by
  induction l generalizing s with
  | nil => exact ⟨s, rfl, rfl⟩
  | cons a rest ih =>
    rw [List.length_cons] at h
    have hlt : s.sp.val < 16 := by omega
    have hsp : (s.push s.pc hlt).sp.val = s.sp.val + 1 := rfl
    rw [callAll_cons_of_next (exec_call a hlt)]
    obtain ⟨t, ht, hd⟩ := ih { s.push s.pc hlt with pc := BitVec.ofNat 16 a.toNat } (by rw [hsp]; omega)
    exact ⟨t, ht, by rw [hd, hsp, List.length_cons]; omega⟩

/-- The call that finds the stack full faults, and the calls after it are not made. -/
theorem callAll_of_gt (l : List Addr) (s : State) (h : 16 < s.sp.val + l.length) :
    callAll l s = .fault (.stackFault .overflow) := by
  induction l generalizing s with
  | nil => have := s.sp.isLt; rw [List.length_nil] at h; omega
  | cons a rest ih =>
    rw [List.length_cons] at h
    by_cases hlt : s.sp.val < 16
    · have hsp : (s.push s.pc hlt).sp.val = s.sp.val + 1 := rfl
      rw [callAll_cons_of_next (exec_call a hlt)]
      exact ih _ (by rw [hsp]; omega)
    · rw [callAll, exec_call_full a (by omega)]

/-! ### The jump to self -/

/-- A 12-bit address in family 1 is the word of the jump to it. -/
theorem decode_jump_to {w a : Word} (ha : a.toNat < 4096) (h : w = 0x1000 + a) :
    decode w = .ok (.jp (BitVec.ofNat 12 a.toNat)) := by
  have hw : w.toNat = 4096 + a.toNat := by
    rw [h, BitVec.toNat_add]
    change (4096 + a.toNat) % 65536 = _
    omega
  have hn3 : fieldN3 w = 0x1 := by
    apply BitVec.eq_of_toNat_eq
    rw [fieldN3_toNat, hw]
    change _ = 1
    omega
  have hnnn : fieldNNN w = BitVec.ofNat 12 a.toNat :=
    BitVec.eq_of_toNat_eq (by rw [fieldNNN_toNat, hw, BitVec.toNat_ofNat]; omega)
  rw [decode_family1 hn3, hnnn]

/-- A state with the same memory and `PC` as a finished one is finished. -/
theorem Finished.congr {s t : State} (hf : Finished s) (hm : t.mem = s.mem) (hpc : t.pc = s.pc) : Finished t := by
  unfold Finished State.fetchWord State.memRead at hf ⊢
  rw [hm, hpc]
  exact hf

/-- A jump to self puts `PC` back where the step found it. -/
theorem step_of_finished {s : State} (hpc : s.pc.toNat < 4096) (hf : Finished s) :
    step s = .next { s.beginStep with pc := s.pc }.endStep := by
  refine step_of_exec_next (decode_jump_to hpc hf) ?_
  rw [exec_jp, BitVec.toNat_ofNat, Nat.mod_eq_of_lt hpc, BitVec.ofNat_toNat, BitVec.setWidth_eq]

/-! ### The obligations -/

/-- Settles O26: the push at the old `SP`, then the jump; on a full stack the fault. -/
theorem callPushesTheReturnAddress : Obligations.CallPushesTheReturnAddress := by
  unfold Obligations.CallPushesTheReturnAddress
  refine ⟨fun _ => decode_family2, fun nnn s => ⟨fun hlt => ?_, exec_call_full nnn⟩⟩
  exact ⟨_, exec_call nnn hlt, rfl, rfl, push_stack_getElem s s.pc hlt⟩

/-- Settles O27: the one word, then the pop of the topmost entry; on an empty stack the fault. -/
theorem retPopsTheReturnAddress : Obligations.RetPopsTheReturnAddress := by
  unfold Obligations.RetPopsTheReturnAddress
  refine ⟨decode_eq_ret_iff, fun s => ⟨fun k hk => ?_, exec_ret_empty⟩⟩
  have hne : s.sp.val ≠ 0 := by omega
  refine ⟨_, exec_ret hne, ?_, ?_⟩
  · rw [top_eq hne hk]; rfl
  · exact Nat.sub_eq_of_eq_add hk

/-- Settles O28: by induction on the list of calls, for any depth of stack to begin with. -/
theorem sixteenCallsNestAndNoMore : Obligations.SixteenCallsNestAndNoMore := by
  unfold Obligations.SixteenCallsNestAndNoMore
  refine fun l s hsp => ⟨fun hl => ?_, fun hl => callAll_of_gt l s (by omega), exec_ret_empty hsp⟩
  obtain ⟨t, ht, hd⟩ := callAll_of_le l s (by omega)
  exact ⟨t, ht, by omega⟩

/-- Settles O29: the entry popped is the one pushed. -/
theorem returnUndoesCall : Obligations.ReturnUndoesCall := by
  unfold Obligations.ReturnUndoesCall
  intro nnn s t h
  have hlt := sp_lt_of_exec_call h
  cases (exec_call nnn hlt).symm.trans h
  have hne : (s.push s.pc hlt).sp.val ≠ 0 := Nat.succ_ne_zero _
  have htop : (s.push s.pc hlt).top hne = s.pc := by
    rw [top_eq hne (k := ⟨s.sp.val, hlt⟩) rfl, push_stack_getElem, if_pos rfl]
  exact ⟨_, exec_ret hne, congrArg (fun w : Word => BitVec.ofNat 16 (w.toNat % 4096)) htop, rfl⟩

/-- Settles O53: the step jumps back to its own word, and neither memory nor `PC` has changed. -/
theorem jumpToSelfStaysFinished : Obligations.JumpToSelfStaysFinished := by
  unfold Obligations.JumpToSelfStaysFinished
  intro s hpc hf
  refine ⟨_, step_of_finished hpc hf, hf.congr ?_ (endStep_pc _), ?_⟩
  · exact (endStep_mem _).trans (beginStep_mem s)
  · refine (endStep_frame_eq _).trans ?_
    simp

end Sys2Proof.Machine

/-! Arithmetic, logic, shifts and random bytes: the flags and the wrapping results as numbers, what an instruction that writes a
register and the flag does, and the obligations about them (42_load_alu.md R143 to R154; 43_index_memory.md R161, R162). -/

namespace Sys2Proof.Machine

/-! ### Words -/

theorem decode_addReg {op : Word} (h8 : fieldN3 op = 0x8) (hn : fieldN op = 0x4) :
    decode op = .ok (.addReg (fieldX op) (fieldY op)) := by
  rw [decode_family8 h8, decodeFamily8, hn]; rfl

theorem decode_sub {op : Word} (h8 : fieldN3 op = 0x8) (hn : fieldN op = 0x5) :
    decode op = .ok (.sub (fieldX op) (fieldY op)) := by
  rw [decode_family8 h8, decodeFamily8, hn]; rfl

theorem decode_subn {op : Word} (h8 : fieldN3 op = 0x8) (hn : fieldN op = 0x7) :
    decode op = .ok (.subn (fieldX op) (fieldY op)) := by
  rw [decode_family8 h8, decodeFamily8, hn]; rfl

/-! ### Results and flags as numbers -/

theorem byte_sub_eq_ofNat (a b : Byte) : a - b = BitVec.ofNat 8 ((a.toNat + 256 - b.toNat) % 256) := by
  apply BitVec.eq_of_toNat_eq
  rw [BitVec.toNat_sub, BitVec.toNat_ofNat]
  omega

theorem byte_shiftRight_one (a : Byte) : a >>> 1 = BitVec.ofNat 8 (a.toNat / 2) := by
  apply BitVec.eq_of_toNat_eq
  rw [BitVec.toNat_ushiftRight, BitVec.toNat_ofNat, Nat.shiftRight_eq_div_pow]
  omega

theorem byte_shiftLeft_one (a : Byte) : a <<< 1 = BitVec.ofNat 8 (2 * a.toNat % 256) := by
  apply BitVec.eq_of_toNat_eq
  rw [BitVec.toNat_shiftLeft, BitVec.toNat_ofNat, Nat.shiftLeft_eq]
  omega

theorem flagByte_carryOut (a b : Byte) : flagByte (carryOut a b) = if a.toNat + b.toNat > 255 then 1 else 0 := by
  simp only [flagByte, carryOut, decide_eq_true_eq, gt_iff_lt]

theorem flagByte_noBorrow (a b : Byte) : flagByte (noBorrow a b) = if a.toNat ≥ b.toNat then 1 else 0 := by
  simp only [flagByte, noBorrow, decide_eq_true_eq, ge_iff_le]

theorem flagByte_cases (c : Bool) : flagByte c = 0 ∨ flagByte c = 1 := by
  cases c
  · exact .inl rfl
  · exact .inr rfl

theorem flagByte_shiftRight_one (c : Bool) : flagByte c >>> 1 = 0 := by cases c <;> rfl

theorem flagByte_lowBit (a : Byte) : flagByte (lowBit a) = BitVec.ofNat 8 (a.toNat % 2) := by
  rw [lowBit, BitVec.getLsbD, Nat.testBit_zero]
  rcases Nat.mod_two_eq_zero_or_one a.toNat with h | h <;> rw [h] <;> rfl

theorem flagByte_highBit (a : Byte) : flagByte (highBit a) = BitVec.ofNat 8 (a.toNat / 128) := by
  rw [highBit, BitVec.getLsbD, Nat.testBit_eq_decide_div_mod_eq]
  rcases (by omega : a.toNat / 2 ^ 7 % 2 = 0 ∧ a.toNat / 128 = 0 ∨ a.toNat / 2 ^ 7 % 2 = 1 ∧ a.toNat / 128 = 1) with
    ⟨h, hd⟩ | ⟨h, hd⟩ <;> rw [h, hd] <;> rfl

theorem flagByte_highBit_shiftLeft_one (a : Byte) :
    flagByte (highBit a) <<< 1 = BitVec.ofNat 8 (2 * (a.toNat / 128)) := by
  rw [flagByte_highBit, byte_shiftLeft_one, BitVec.toNat_ofNat]
  exact congrArg (BitVec.ofNat 8) (by omega)

/-! ### The execute phase -/

/-- An instruction whose execute phase is one register write, told bit by bit. -/
theorem exec_writes_register_bits {i : Instr} {s : State} {x : RegIx} {b : Byte} (h : exec i s = .next (s.setV x b))
    {bit : Nat → Bool} (hb : ∀ k, b.getLsbD k = bit k) :
    ∃ t, exec i s = .next t ∧ t = { s with v := t.v } ∧ (∀ z, z ≠ x → t.getV z = s.getV z) ∧
      ∀ k, (t.getV x).getLsbD k = bit k :=
  ⟨s.setV x b, h, rfl, fun _ hz => getV_setV_other s b hz, fun k => by rw [getV_setV_same, hb]⟩

theorem getV_setV_setFlag (s : State) (x z : RegIx) (b : Byte) (c : Bool) :
    ((s.setV x b).setFlag c).getV z = if z = 15 then flagByte c else if z = x then b else s.getV z := by
  rw [getV_setFlag, getV_setV]

/-- The flag is written first and the register, read again, is changed then: where it is `VF`, the flag is changed (R154;
log 15). -/
theorem getV_setFlag_setV (s : State) (x z : RegIx) (c : Bool) (f : Byte → Byte) :
    ((s.setFlag c).setV x (f ((s.setFlag c).getV x))).getV z =
      if z = 15 then (if x = 15 then f (flagByte c) else flagByte c) else if z = x then f (s.getV x) else s.getV z := by
  rw [getV_setV, getV_setFlag, getV_setFlag]
  by_cases hx : x = 15
  · subst hx
    by_cases hz : z = 15
    · rw [if_pos hz, if_pos rfl, if_pos hz, if_pos rfl]
    · rw [if_neg hz, if_neg hz, if_neg hz, if_neg hz]
  · rw [if_neg hx, if_neg hx]
    by_cases hz : z = 15
    · rw [if_neg (fun h => hx (h.symm.trans hz)), if_pos hz, if_pos hz]
    · rw [if_neg hz, if_neg hz]

theorem exec_addReg (x y : RegIx) (s : State) :
    exec (.addReg x y) s = .next ((s.setV x (s.getV x + s.getV y)).setFlag (carryOut (s.getV x) (s.getV y))) := rfl

theorem exec_sub (x y : RegIx) (s : State) :
    exec (.sub x y) s = .next ((s.setV x (s.getV x - s.getV y)).setFlag (noBorrow (s.getV x) (s.getV y))) := rfl

theorem exec_subn (x y : RegIx) (s : State) :
    exec (.subn x y) s = .next ((s.setV x (s.getV y - s.getV x)).setFlag (noBorrow (s.getV y) (s.getV x))) := rfl

theorem exec_shr (x : RegIx) (s : State) :
    exec (.shr x) s = .next ((s.setFlag (lowBit (s.getV x))).setV x ((s.setFlag (lowBit (s.getV x))).getV x >>> 1)) := rfl

theorem exec_shl (x : RegIx) (s : State) :
    exec (.shl x) s = .next ((s.setFlag (highBit (s.getV x))).setV x ((s.setFlag (highBit (s.getV x))).getV x <<< 1)) :=
  rfl

theorem exec_rnd (x : RegIx) (kk : Byte) (s : State) : exec (.rnd x kk) s = .next (s.setV x (s.rand &&& kk)) := rfl

theorem exec_addI (x : RegIx) (s : State) :
    exec (.addI x) s = .next { s with index := BitVec.ofNat 16 ((s.index.toNat + (s.getV x).toNat) % 4096) } := by
  have h : mask12 (s.index + zextByte (s.getV x)) = BitVec.ofNat 16 ((s.index.toNat + (s.getV x).toNat) % 4096) := by
    rw [mask12_eq_ofNat, BitVec.toNat_add, zextByte_toNat]
    exact congrArg (BitVec.ofNat 16) (by omega)
  rw [← h]; rfl

/-- The glyph address never carries out of 16 bits. -/
theorem glyphAddr_toNat (s : State) (x : RegIx) : (s.glyphAddr x).toNat = 0x050 + 5 * (s.getV x).toNat := by
  rw [State.glyphAddr, BitVec.toNat_add, BitVec.toNat_mul, zextByte_toNat]
  change (80 + 5 * (s.getV x).toNat % 65536) % 65536 = _
  omega

theorem exec_ldF (x : RegIx) (s : State) :
    exec (.ldF x) s = .next { s with index := BitVec.ofNat 16 ((0x050 + 5 * (s.getV x).toNat) % 4096) } := by
  rw [← glyphAddr_toNat, ← mask12_eq_ofNat]; rfl

/-! ### The obligations -/

/-- Settles O31: each is one register write of the bitwise result. -/
theorem logicWorksBitByBit : Obligations.LogicWorksBitByBit := by
  unfold Obligations.LogicWorksBitByBit
  refine fun x y s => ⟨?_, ?_, ?_⟩
  · exact exec_writes_register_bits rfl fun _ => BitVec.getLsbD_or
  · exact exec_writes_register_bits rfl fun _ => BitVec.getLsbD_and
  · exact exec_writes_register_bits rfl fun _ => BitVec.getLsbD_xor

/-- Settles O32: the sum is written first, the carry over it. -/
theorem addRegSetsCarry : Obligations.AddRegSetsCarry := by
  unfold Obligations.AddRegSetsCarry
  refine ⟨fun _ => decode_addReg, fun x y s => ⟨_, exec_addReg x y s, rfl, fun z => ?_⟩⟩
  rw [getV_setV_setFlag, flagByte_carryOut, byte_add_eq_ofNat]

/-- Settles O33: the difference is written first, the no-borrow over it. -/
theorem subSetsNoBorrow : Obligations.SubSetsNoBorrow := by
  unfold Obligations.SubSetsNoBorrow
  refine ⟨fun _ => decode_sub, fun x y s => ⟨_, exec_sub x y s, rfl, fun z => ?_⟩⟩
  rw [getV_setV_setFlag, flagByte_noBorrow, byte_sub_eq_ofNat]

/-- Settles O34: as `SUB`, with the operands the other way round. -/
theorem subnSetsNoBorrow : Obligations.SubnSetsNoBorrow := by
  unfold Obligations.SubnSetsNoBorrow
  refine ⟨fun _ => decode_subn, fun x y s => ⟨_, exec_subn x y s, rfl, fun z => ?_⟩⟩
  rw [getV_setV_setFlag, flagByte_noBorrow, byte_sub_eq_ofNat]

/-- Settles O35: for x = 15 the shift acts on the flag just written, for another x on the register as it was. -/
theorem shiftsSetTheBitShiftedOut : Obligations.ShiftsSetTheBitShiftedOut := by
  unfold Obligations.ShiftsSetTheBitShiftedOut
  refine fun x s => ⟨⟨_, exec_shr x s, rfl, fun z => ?_⟩, ⟨_, exec_shl x s, rfl, fun z => ?_⟩⟩
  · rw [getV_setFlag_setV s x z _ (· >>> 1), flagByte_shiftRight_one, flagByte_lowBit, byte_shiftRight_one]
  · rw [getV_setFlag_setV s x z _ (· <<< 1), flagByte_highBit_shiftLeft_one, flagByte_highBit, byte_shiftLeft_one]

/-- Settles O36: one register write of the masked byte, and a list of inputs that begins with the wanted byte. -/
theorem rndMasksTheRandomByte : Obligations.RndMasksTheRandomByte := by
  unfold Obligations.RndMasksTheRandomByte
  refine ⟨fun _ => decode_familyC, fun x kk s => ?_, fun s b => ⟨[⟨0, b⟩], rfl⟩⟩
  exact exec_writes_register_bits (exec_rnd x kk s) fun _ => BitVec.getLsbD_and

/-- Settles O38: the mask reduces both sums mod 4096. -/
theorem indexSumsWrapAtTwelveBits : Obligations.IndexSumsWrapAtTwelveBits := by
  unfold Obligations.IndexSumsWrapAtTwelveBits
  exact fun x s => ⟨exec_addI x s, exec_ldF x s⟩

end Sys2Proof.Machine

/-! Stores and loads: decimal digits and register blocks in memory, the fetch after a store, and the obligations about them
(43_index_memory.md R163 to R166; 20_memory.md R60). -/

namespace Sys2Proof.Machine

/-! ### Addresses above `I` -/

theorem aboveIndex_index_add (s : State) {k : Nat} (hk : k < 4096) : s.aboveIndex (s.index.toNat + k) = k :=
  (mod_eq_index_add_iff s _ k hk).mp rfl

theorem aboveIndex_index (s : State) : s.aboveIndex s.index.toNat = 0 := aboveIndex_index_add s (k := 0) (by decide)

theorem aboveIndex_beginStep (s : State) (a : Nat) : s.beginStep.aboveIndex a = s.aboveIndex a := by
  simp only [State.aboveIndex, beginStep_index]

/-! ### Decimal digits -/

/-- What `LD_B` does: the three digits of a byte at `I`, `I + 1`, `I + 2` (R163). -/
def State.storeDigits (s : State) (b : Byte) : State :=
  ((s.memWrite s.index.toNat (hundreds b)).memWrite (s.index.toNat + 1) (tens b)).memWrite (s.index.toNat + 2) (units b)

theorem exec_ldB (x : RegIx) (s : State) : exec (.ldB x) s = .next (s.storeDigits (s.getV x)) := rfl

theorem storeDigits_eq (s : State) (b : Byte) : s.storeDigits b = { s with mem := (s.storeDigits b).mem } := rfl

/-- A byte read after `LD_B`: the three bytes from `I` hold the digits, every other byte is as before. -/
theorem memRead_storeDigits {s : State} (h : Memory.wf s.mem) (b : Byte) (a : Nat) :
    (s.storeDigits b).memRead a =
      if s.aboveIndex a = 0 then hundreds b else if s.aboveIndex a = 1 then tens b
      else if s.aboveIndex a = 2 then units b else s.memRead a := by
  have h0 := mod_eq_index_add_iff s a 0 (by decide)
  rw [Nat.add_zero] at h0
  have h1 := memWrite_wf h s.index.toNat (hundreds b)
  rw [State.storeDigits, memRead_memWrite (memWrite_wf h1 _ _), memRead_memWrite h1, memRead_memWrite h]
  simp only [mod_eq_index_add_iff s a 1 (by decide), mod_eq_index_add_iff s a 2 (by decide), h0]
  split
  · next h2 => simp [h2]
  split
  · next h1 => simp [h1]
  rfl

theorem memRead_storeDigits_hundreds {s : State} (h : Memory.wf s.mem) (b : Byte) :
    (s.storeDigits b).memRead s.index.toNat = hundreds b := by
  rw [memRead_storeDigits h, if_pos (aboveIndex_index s)]

theorem memRead_storeDigits_tens {s : State} (h : Memory.wf s.mem) (b : Byte) :
    (s.storeDigits b).memRead (s.index.toNat + 1) = tens b := by
  rw [memRead_storeDigits h, aboveIndex_index_add s (by decide)]; rfl

theorem memRead_storeDigits_units {s : State} (h : Memory.wf s.mem) (b : Byte) :
    (s.storeDigits b).memRead (s.index.toNat + 2) = units b := by
  rw [memRead_storeDigits h, aboveIndex_index_add s (by decide)]; rfl

theorem memRead_storeDigits_other {s : State} (h : Memory.wf s.mem) (b : Byte) {a : Nat}
    (h0 : a % 4096 ≠ s.index.toNat % 4096) (h1 : a % 4096 ≠ (s.index.toNat + 1) % 4096)
    (h2 : a % 4096 ≠ (s.index.toNat + 2) % 4096) : (s.storeDigits b).memRead a = s.memRead a := by
  rw [memRead_storeDigits h, if_neg (mt (mod_eq_index_add_iff s a 0 (by decide)).mpr h0),
    if_neg (mt (mod_eq_index_add_iff s a 1 (by decide)).mpr h1),
    if_neg (mt (mod_eq_index_add_iff s a 2 (by decide)).mpr h2)]

/-- The digits of a byte make it again. -/
theorem digits_sum (b : Byte) : 100 * (hundreds b).toNat + 10 * (tens b).toNat + (units b).toNat = b.toNat := by
  simp only [hundreds, tens, units, BitVec.toNat_ofNat]
  omega

/-! ### Register blocks -/

theorem exec_stRegs (x : RegIx) (s : State) : exec (.stRegs x) s = .next (s.storeRegs (x.toNat + 1)) := rfl

theorem exec_ldRegs (x : RegIx) (s : State) : exec (.ldRegs x) s = .next (s.loadRegs (x.toNat + 1)) := rfl

theorem ofNat_toNat_regIx (k : RegIx) : BitVec.ofNat 4 k.toNat = k := by rw [BitVec.ofNat_toNat, BitVec.setWidth_eq]

/-! ### The fetch after a step that has only moved on -/

/-- The next word lies 2 above the last one, going round the 4096 bytes. -/
theorem fetchWord_of_advanced {s t : State} (h : t.pc = mask12 (s.pc + 2)) :
    t.fetchWord = t.memRead (s.pc.toNat + 2) ++ t.memRead (s.pc.toNat + 3) := by
  have hpc : t.pc.toNat = (s.pc.toNat + 2) % 4096 := by
    rw [h, mask12_add_two, BitVec.toNat_ofNat]
    omega
  have hlow : ((s.pc.toNat + 2) % 4096 + 1) % 4096 = (s.pc.toNat + 3) % 4096 := by omega
  rw [fetchWord_eq, hpc, memRead_mod, ← memRead_mod t (_ % 4096 + 1), hlow, memRead_mod]

/-! ### The obligations -/

/-- Settles O39: the bytes by their distance above `I`. -/
theorem ldBStoresDecimalDigits : Obligations.LdBStoresDecimalDigits := by
  unfold Obligations.LdBStoresDecimalDigits
  intro x s hwf
  exact ⟨_, exec_ldB x s, storeDigits_eq s _, memRead_storeDigits_hundreds hwf _, memRead_storeDigits_tens hwf _,
    memRead_storeDigits_units hwf _, fun _ => memRead_storeDigits_other hwf _⟩

/-- Settles O40: the bytes read back are the digits, and the digits make the byte again. -/
theorem decimalDigitsReconstruct : Obligations.DecimalDigitsReconstruct := by
  unfold Obligations.DecimalDigitsReconstruct
  intro x s t hwf h
  cases (exec_ldB x s).symm.trans h
  have hindex : (s.storeDigits (s.getV x)).index = s.index := rfl
  have hx : (s.storeDigits (s.getV x)).getV x = s.getV x := rfl
  rw [hindex, hx, memRead_storeDigits_hundreds hwf, memRead_storeDigits_tens hwf, memRead_storeDigits_units hwf,
    digits_sum]

/-- Settles O41: the bytes by their distance above `I`, at most x. -/
theorem stRegsStoresTheBlock : Obligations.StRegsStoresTheBlock := by
  unfold Obligations.StRegsStoresTheBlock
  intro x s hwf
  have hread := memRead_storeRegs hwf (x.toNat + 1) (by omega)
  refine ⟨_, exec_stRegs x s, storeRegs_eq s _, fun k hk => ?_, fun a ha => ?_⟩
  · have hkx : k.toNat ≤ x.toNat := BitVec.le_def.mp hk
    rw [hread, aboveIndex_index_add s (by omega), if_pos (by omega), ofNat_toNat_regIx]
  · rw [hread, if_neg]
    intro hlt
    have hk : (BitVec.ofNat 4 (s.aboveIndex a)).toNat = s.aboveIndex a := by rw [BitVec.toNat_ofNat]; omega
    refine ha (BitVec.ofNat 4 (s.aboveIndex a)) (BitVec.le_def.mpr (by omega)) ?_
    rw [hk, mod_eq_index_add_iff s a _ (by omega)]

/-- Settles O42: each register by the loop's own law. -/
theorem ldRegsLoadsTheBlock : Obligations.LdRegsLoadsTheBlock := by
  unfold Obligations.LdRegsLoadsTheBlock
  refine fun x s => ⟨_, exec_ldRegs x s, loadRegs_eq s _, fun k => ?_⟩
  rw [getV_loadRegs s _ (by omega), memRead_mod]
  simp only [BitVec.le_def, Nat.lt_succ_iff]

/-- Settles O18: the next word is read from the memory that the store left. -/
theorem storeIsSeenByTheNextFetch : Obligations.StoreIsSeenByTheNextFetch := by
  unfold Obligations.StoreIsSeenByTheNextFetch
  intro s x hwf
  have hwf' : Memory.wf s.beginStep.mem := by rwa [beginStep_mem]
  constructor
  · intro hd now
    have hnow (a : Nat) : (s.beginStep.storeRegs (x.toNat + 1)).endStep.memRead a = now a := by
      rw [endStep_memRead, memRead_storeRegs hwf' _ (by omega), aboveIndex_beginStep, beginStep_getV, beginStep_memRead]
      simp only [now, Nat.lt_succ_iff]
    refine ⟨_, step_of_exec_next hd (exec_stRegs x _), ?_⟩
    rw [fetchWord_of_advanced (s := s) (by simp), hnow, hnow]
  · intro hd now
    have hnow (a : Nat) : (s.beginStep.storeDigits (s.beginStep.getV x)).endStep.memRead a = now a := by
      rw [endStep_memRead, memRead_storeDigits hwf', aboveIndex_beginStep, beginStep_getV, beginStep_memRead]
      rfl
    refine ⟨_, step_of_exec_next hd (exec_ldB x _), ?_⟩
    rw [fetchWord_of_advanced (s := s) (by rw [endStep_pc, storeDigits_eq, beginStep_pc]), hnow, hnow]

end Sys2Proof.Machine

/-! Drawing: what `DRW` does to each cell and to the flag, drawing twice, and the obligations about them (44_display.md R181 to
R186). -/

namespace Sys2Proof.Machine

/-! ### The drawing of a `DRW` -/

/-- The display and the collision that `DRW x y n` makes in this state (R181). -/
def State.drawing (s : State) (x y : RegIx) (n : Count) : Drawing :=
  drawSprite s.disp (s.originX x) (s.originY y) (s.spriteRows n)

theorem exec_drw (x y : RegIx) (n : Count) (s : State) :
    exec (.drw x y n) s = .next ((s.setFlag (s.drawing x y n).2).setDisp (s.drawing x y n).1).emitFrame := rfl

theorem cell_drawing (s : State) (x y : RegIx) (n : Count) {qx qy : Nat} (hx : qx < 64) (hy : qy < 32) :
    Display.cell (s.drawing x y n).1 qx qy = (Display.cell s.disp qx qy ^^ s.drwBit x y n qx qy) := by
  rw [State.drawing, drawSprite, cell_drawRows _ _ _ _ hx hy, spriteBit_spriteRows]

theorem hit_drawing (s : State) (x y : RegIx) (n : Count) :
    (s.drawing x y n).2 = true ↔
      ∃ qx qy, qx < 64 ∧ qy < 32 ∧ s.drwBit x y n qx qy = true ∧ Display.cell s.disp qx qy = true := by
  simp only [State.drawing, drawSprite, hit_drawRows, spriteBit_spriteRows, Bool.false_eq_true, false_or]

theorem flagByte_eq_one_iff (c : Bool) : flagByte c = 1 ↔ c = true := by cases c <;> decide

/-- A `DRW` writes no register but `VF`. -/
theorem drw_getV (s : State) (c : Bool) (d : Display) (z : RegIx) :
    ((s.setFlag c).setDisp d).emitFrame.getV z = if z = 15 then flagByte c else s.getV z :=
  getV_setFlag s z c

/-- The sprite is the same where the registers it names, memory and `I` are. -/
theorem drwBit_congr {s t : State} {x y : RegIx} (hx : t.getV x = s.getV x) (hy : t.getV y = s.getV y)
    (hm : t.mem = s.mem) (hi : t.index = s.index) (n : Count) (qx qy : Nat) :
    t.drwBit x y n qx qy = s.drwBit x y n qx qy := by
  simp only [State.drwBit, State.memRead, hx, hy, hm, hi]

/-- All that a `DRW` does (R181 to R184). -/
theorem exec_drw_next {x y : RegIx} {n : Count} {s t : State} (h : exec (.drw x y n) s = .next t) :
    t = { s with v := t.v, disp := t.disp, frame := some t.disp } ∧
      (∀ qx qy, qx < 64 → qy < 32 →
        Display.cell t.disp qx qy = (Display.cell s.disp qx qy ^^ s.drwBit x y n qx qy)) ∧
      (∀ z, z ≠ 15 → t.getV z = s.getV z) ∧
      (t.getV 15 = 0 ∨ t.getV 15 = 1) ∧
      (t.getV 15 = 1 ↔
        ∃ qx qy, qx < 64 ∧ qy < 32 ∧ s.drwBit x y n qx qy = true ∧ Display.cell s.disp qx qy = true) := by
  cases (exec_drw x y n s).symm.trans h
  refine ⟨rfl, fun qx qy => cell_drawing s x y n, fun z hz => ?_, ?_, ?_⟩
  · rw [drw_getV, if_neg hz]
  · rw [drw_getV, if_pos rfl]; exact flagByte_cases _
  · rw [drw_getV, if_pos rfl, flagByte_eq_one_iff]; exact hit_drawing s x y n

/-- A display that differs differs in a cell. -/
theorem exists_cell_ne {d e : Display} (h : d ≠ e) :
    ∃ qx qy, qx < 64 ∧ qy < 32 ∧ Display.cell d qx qy ≠ Display.cell e qx qy := by
  by_contra hn
  push Not at hn
  exact h (display_ext hn)

/-! ### The obligations -/

/-- Settles O44: the cells and the collision by the sprite engine's laws, `VF` by the flag that is written. -/
theorem drwXorsTheSprite : Obligations.DrwXorsTheSprite := by
  unfold Obligations.DrwXorsTheSprite
  exact fun x y n s => ⟨_, exec_drw x y n s, exec_drw_next (exec_drw x y n s)⟩

/-- Settles O45: both draws have the same bits, so each cell is toggled twice or not at all; a cell that the first draw changed
without a collision is set by it and met by the second. -/
theorem drawingTwiceRestoresTheDisplay : Obligations.DrawingTwiceRestoresTheDisplay := by
  unfold Obligations.DrawingTwiceRestoresTheDisplay
  intro x y n s t u hx hy hs ht
  obtain ⟨hframe, hcell, hreg, -, hflag⟩ := exec_drw_next hs
  obtain ⟨-, hcell', -, -, hflag'⟩ := exec_drw_next ht
  have hmem : t.mem = s.mem := by rw [hframe]
  have hindex : t.index = s.index := by rw [hframe]
  have hbit := drwBit_congr (hreg x hx) (hreg y hy) hmem hindex n
  constructor
  · refine display_ext fun qx qy hqx hqy => ?_
    rw [hcell' qx qy hqx hqy, hcell qx qy hqx hqy, hbit, Bool.xor_assoc, Bool.xor_self, Bool.xor_false]
  · intro hzero hne
    obtain ⟨qx, qy, hqx, hqy, hdiff⟩ := exists_cell_ne hne
    rw [hcell qx qy hqx hqy] at hdiff
    have hset : s.drwBit x y n qx qy = true := by
      by_contra hn; rw [Bool.eq_false_iff.mpr hn, Bool.xor_false] at hdiff; exact hdiff rfl
    have hunset : Display.cell s.disp qx qy = false := by
      by_contra hn
      have hone := hflag.mpr ⟨qx, qy, hqx, hqy, hset, Bool.eq_true_of_not_eq_false hn⟩
      rw [hzero] at hone
      exact absurd hone (by decide)
    exact hflag'.mpr ⟨qx, qy, hqx, hqy, (hbit qx qy).trans hset, by rw [hcell qx qy hqx hqy, hset, hunset]; rfl⟩

end Sys2Proof.Machine

/-! Keypad, timers and outputs: key skips, the key wait, timer moves, the divider of the timer phase, the host-facing outputs, and
the obligations about them (45_keypad_timers.md R200 to R206; 60_exceptions.md R225, R234 to R241). -/

namespace Sys2Proof.Machine

/-! ### Keys -/

theorem keyNumber_eq (s : State) (x : RegIx) : s.keyNumber x = (s.getV x).toNat % 16 := by
  have h : (0xF : Byte).toNat = 2 ^ 4 - 1 := rfl
  rw [State.keyNumber, BitVec.toNat_and, h, Nat.and_two_pow_sub_one_eq_mod]

theorem keyPressed_eq (s : State) (x : RegIx) : s.keyPressed x = s.keys.getLsbD ((s.getV x).toNat % 16) := by
  rw [State.keyPressed, keyNumber_eq]

theorem skipIf_eq (s : State) (c : Bool) :
    s.skipIf c = { s with pc := if c = true then BitVec.ofNat 16 ((s.pc.toNat + 2) % 4096) else s.pc } := by
  rw [← mask12_add_two]; rfl

theorem skipIf_not_eq (s : State) (c : Bool) :
    s.skipIf (!c) = { s with pc := if c = true then s.pc else BitVec.ofNat 16 ((s.pc.toNat + 2) % 4096) } := by
  rw [skipIf_eq]; cases c <;> rfl

theorem exec_skp (x : RegIx) (s : State) : exec (.skp x) s = .next (s.skipIf (s.keyPressed x)) := rfl

theorem exec_sknp (x : RegIx) (s : State) : exec (.sknp x) s = .next (s.skipIf (!s.keyPressed x)) := rfl

theorem exec_ldVxK_of_no_key (x : RegIx) {s : State} (h : s.keys = 0) : exec (.ldVxK x) s = .next s.rewindPc := by
  change Host.Outcome.next _ = _
  rw [(leastPressed_eq_none_iff s.keys).mpr h]

theorem exec_ldVxK_of_key (x : RegIx) {s : State} {k : Byte} (h : leastPressed s.keys = some k) :
    exec (.ldVxK x) s = .next (s.setV x k) := by
  change Host.Outcome.next _ = _
  rw [h]

theorem rewindPc_eq (s : State) : s.rewindPc = { s with pc := BitVec.ofNat 16 ((s.pc.toNat + 4094) % 4096) } := by
  rw [← mask12_sub_two]; rfl

/-- The rewind undoes the fetch advance (R203: "unchanged (net)"). -/
theorem beginStep_rewindPc_pc {s : State} (h : s.pc.toNat < 4096) : s.beginStep.rewindPc.pc = s.pc := by
  apply BitVec.eq_of_toNat_eq
  rw [rewindPc_eq, beginStep_pc, mask12_add_two, BitVec.toNat_ofNat, BitVec.toNat_ofNat]
  omega

/-! ### The timer phase -/

theorem decTimer_eq_ofNat (t : Byte) : decTimer t = BitVec.ofNat 8 (t.toNat - 1) := by
  apply BitVec.eq_of_toNat_eq
  rw [decTimer_toNat, BitVec.toNat_ofNat]
  omega

theorem runTimers_of_not_tick {s : State} (h : 60 < s.acc) : s.runTimers = { s with acc := s.acc - 60 } := by
  have ht : s.ticks = false := Bool.eq_false_iff.mpr fun hc => by have := (ticks_iff s).mp hc; omega
  simp only [State.runTimers, ht, accLeft_eq, Bool.false_eq_true, if_false]

theorem runTimers_of_tick {s : State} (h : s.acc ≤ 60) :
    s.runTimers =
      { s with dt := BitVec.ofNat 8 (s.dt.toNat - 1), st := BitVec.ofNat 8 (s.st.toNat - 1), acc := s.clockHz } := by
  simp only [State.runTimers, (ticks_iff s).mpr h, decTimer_eq_ofNat, if_true]

/-! ### The divider -/

/-- Quotient and remainder of the next number, where the remainder comes round and where it does not. -/
theorem succ_div_mod_of_full {j p : Nat} (hp : 0 < p) (h : j % p + 1 = p) : (j + 1) / p = j / p + 1 ∧ (j + 1) % p = 0 := by
  have hj := Nat.div_add_mod j p
  exact (Nat.div_mod_unique hp).mpr ⟨by rw [Nat.mul_succ]; omega, hp⟩

theorem succ_div_mod_of_not_full {j p : Nat} (h : j % p + 1 < p) : (j + 1) / p = j / p ∧ (j + 1) % p = j % p + 1 := by
  have hj := Nat.div_add_mod j p
  exact (Nat.div_mod_unique (by omega)).mpr ⟨by omega, h⟩

/-- The timer phases of one period, ceil(`CLOCK_HZ` / 60) (R236). -/
def tickPeriod (hz : Nat) : Nat := (hz + 59) / 60

theorem tickPeriod_pos {hz : Nat} (h : 1 ≤ hz) : 0 < tickPeriod hz := by
  unfold tickPeriod; omega

/-- The accumulator is down to one step duration in the last phase of a period and in no other. -/
theorem acc_le_step_iff_last_phase {hz r : Nat} (h : r < tickPeriod hz) :
    hz - 60 * r ≤ 60 ↔ r + 1 = tickPeriod hz := by
  unfold tickPeriod at h ⊢; omega

/-- `t` is `s` after j timer phases from a full period and no timer write (R236). -/
structure RanFor (s t : State) (j : Nat) : Prop where
  clock : t.clockHz = s.clockHz
  dt : t.dt.toNat = s.dt.toNat - j / tickPeriod s.clockHz
  st : t.st.toNat = s.st.toNat - j / tickPeriod s.clockHz
  acc : t.acc = s.clockHz - 60 * (j % tickPeriod s.clockHz)

/-- One more phase ticks exactly where it completes a period. -/
theorem RanFor.runTimers {s t : State} {j : Nat} (hpos : 1 ≤ s.clockHz) (h : RanFor s t j) :
    RanFor s t.runTimers (j + 1) := by
  obtain ⟨hclock, hdt, hst, hacc⟩ := h
  have hp := tickPeriod_pos hpos
  have hlast := acc_le_step_iff_last_phase (Nat.mod_lt j hp)
  rw [← hacc] at hlast
  by_cases hfull : j % tickPeriod s.clockHz + 1 = tickPeriod s.clockHz
  · obtain ⟨hdiv, hmod⟩ := succ_div_mod_of_full hp hfull
    rw [runTimers_of_tick (hlast.mpr hfull)]
    refine ⟨hclock, ?_, ?_, by rw [hmod]; exact hclock⟩
    · rw [hdiv, BitVec.toNat_ofNat]; omega
    · rw [hdiv, BitVec.toNat_ofNat]; omega
  · obtain ⟨hdiv, hmod⟩ := succ_div_mod_of_not_full (lt_of_le_of_ne (Nat.mod_lt j hp) hfull)
    rw [runTimers_of_not_tick (Nat.not_le.mp (mt hlast.mp hfull))]
    refine ⟨hclock, by rw [hdiv]; exact hdt, by rw [hdiv]; exact hst, ?_⟩
    change t.acc - 60 = _
    rw [hmod, hacc]; omega

theorem ranFor_iterate {s : State} (hpos : 1 ≤ s.clockHz) (hacc : s.acc = s.clockHz) (j : Nat) :
    RanFor s (State.runTimers^[j] s) j := by
  induction j with
  | zero => exact ⟨rfl, by simp, by simp, by simpa using hacc⟩
  | succ j ih => rw [Function.iterate_succ_apply']; exact ih.runTimers hpos

/-! ### Outputs -/

theorem buzzer_iff (s : State) : s.buzzer = true ↔ s.st.toNat ≠ 0 := by
  rw [State.buzzer, bne_iff_ne, ne_eq, ← BitVec.toNat_inj]; rfl

theorem clockPeriod_mul_clockHz {s : State} (h : 0 < s.clockHz) : s.clockPeriod * (s.clockHz : Rat) = 1 :=
  one_div_mul_cancel (Nat.cast_ne_zero.mpr h.ne')

theorem port_getElem (d : Display) {px py : Nat} (hx : px < 64) (hy : py < 32) :
    (Display.port d)[64 * py + px]'(by omega) = Display.cell d px py := by
  have hcol : (64 * py + px) % 64 = px := by omega
  have hrow : (64 * py + px) / 64 = py := by omega
  simp only [Display.port, Vector.getElem_ofFn, hcol, hrow]

/-! ### The obligations -/

/-- Settles O46: the mask takes the key number mod 16. -/
theorem keySkipsTestTheSnapshot : Obligations.KeySkipsTestTheSnapshot := by
  unfold Obligations.KeySkipsTestTheSnapshot
  intro x s
  exact ⟨by rw [exec_skp, skipIf_eq, keyPressed_eq], by rw [exec_sknp, skipIf_not_eq, keyPressed_eq]⟩

/-- Settles O47: with no key the rewind, else one register write of the least key. -/
theorem keyWaitStallsOrTakesTheLeastKey : Obligations.KeyWaitStallsOrTakesTheLeastKey := by
  unfold Obligations.KeyWaitStallsOrTakesTheLeastKey
  refine fun x s => ⟨fun h0 => by rw [exec_ldVxK_of_no_key x h0, rewindPc_eq], fun hne => ?_⟩
  obtain ⟨k, hk⟩ := Option.ne_none_iff_exists'.mp (mt (leastPressed_eq_none_iff s.keys).mp hne)
  refine ⟨_, exec_ldVxK_of_key x hk, rfl, fun z hz => getV_setV_other s k hz, ?_⟩
  rw [getV_setV_same]
  exact leastPressed_eq_some hk

/-- Settles O48: the rewind undoes the fetch advance, and nothing else of the machine is written. -/
theorem stalledKeyWaitKeepsPc : Obligations.StalledKeyWaitKeepsPc := by
  unfold Obligations.StalledKeyWaitKeepsPc
  intro s x hpc hd hkeys
  refine ⟨_, step_of_exec_next hd (exec_ldVxK_of_no_key x (by rw [beginStep_keys, hkeys])), ?_⟩
  rw [endStep_pc, beginStep_rewindPc_pc hpc]
  simp

/-- Settles O49: each is one write, of a register or of a timer. -/
theorem timerRegistersMove : Obligations.TimerRegistersMove := by
  unfold Obligations.TimerRegistersMove
  exact fun x s => ⟨exec_writes_one_register (rfl : exec (.ldVxDt x) s = .next (s.setV x s.dt)), rfl, rfl⟩

/-- Settles O50: by whether the phase is a tick. -/
theorem timerPhaseTicksOrCountsDown : Obligations.TimerPhaseTicksOrCountsDown := by
  unfold Obligations.TimerPhaseTicksOrCountsDown
  exact fun _ => ⟨runTimers_of_not_tick, runTimers_of_tick⟩

/-- Settles O51: by induction on the number of phases. -/
theorem timersTickEveryPeriod : Obligations.TimersTickEveryPeriod := by
  unfold Obligations.TimersTickEveryPeriod
  intro s j hpos hacc
  obtain ⟨-, hdt, hst, hacc'⟩ := ranFor_iterate hpos hacc j
  exact ⟨hdt, hst, hacc'⟩

/-- Settles O52: each output by the function that it is. -/
theorem outputsFollowTheState : Obligations.OutputsFollowTheState := by
  unfold Obligations.OutputsFollowTheState
  exact ⟨fun s => ⟨buzzer_iff s, clockPeriod_mul_clockHz⟩, fun d _ _ => port_getElem d,
    rfl, fun _ _ => rfl, rfl, rfl, fun _ => rfl⟩

end Sys2Proof.Machine

/-! Who writes what: the elements each instruction may write, the registers and the flag among them, the frame of a step, what the
inputs of a step reach, and the obligations about them (10_state.md R20 to R30; 40_step_cycle.md R105 to R108). -/

namespace Sys2Proof.Machine

/-! ### The elements an instruction may write -/

/-- `s` with the elements that the row of `i` names taken from `t` (10_state.md R20 to R30; log 18). -/
def withWritten (i : Instr) (s t : State) : State :=
  match i with
  | .sys _ => s
  | .cls => { s with disp := t.disp, frame := t.frame }
  | .drw _ _ _ => { s with v := t.v, disp := t.disp, frame := t.frame }
  | .ret => { s with pc := t.pc, sp := t.sp }
  | .call _ => { s with pc := t.pc, stack := t.stack, sp := t.sp }
  | .jp _ | .jpV0 _ | .seImm _ _ | .sneImm _ _ | .seReg _ _ | .sneReg _ _ | .skp _ | .sknp _ => { s with pc := t.pc }
  | .ldVxK _ => { s with v := t.v, pc := t.pc }
  | .ldImm _ _ | .addImm _ _ | .ldReg _ _ | .orReg _ _ | .andReg _ _ | .xorReg _ _ | .addReg _ _ | .sub _ _ | .shr _
  | .subn _ _ | .shl _ | .rnd _ _ | .ldVxDt _ | .ldRegs _ => { s with v := t.v }
  | .ldI _ | .addI _ | .ldF _ => { s with index := t.index }
  | .ldDtVx _ => { s with dt := t.dt }
  | .ldStVx _ => { s with st := t.st }
  | .ldB _ | .stRegs _ => { s with mem := t.mem }

/-- The next state differs from the state before in the elements of the instruction's row alone. -/
theorem exec_next_eq {i : Instr} {s t : State} (h : exec i s = .next t) : t = withWritten i s t := by
  cases i
  case call nnn => have hlt := sp_lt_of_exec_call h; cases (exec_call_of_lt nnn hlt).symm.trans h; rfl
  case ret => have hne := sp_ne_of_exec_ret h; cases (exec_ret_of_ne hne).symm.trans h; rfl
  case ldVxK x => cases h; split <;> rfl
  case stRegs x => cases h; exact storeRegs_eq s _
  case ldRegs x => cases h; exact loadRegs_eq s _
  all_goals cases h; rfl

section Elements

variable {i : Instr} {s t : State} (h : exec i s = .next t)
include h

theorem exec_pc
    (hi : ∀ x y kk nnn, i ≠ .ret ∧ i ≠ .jp nnn ∧ i ≠ .call nnn ∧ i ≠ .jpV0 nnn ∧ i ≠ .seImm x kk ∧ i ≠ .sneImm x kk ∧
      i ≠ .seReg x y ∧ i ≠ .sneReg x y ∧ i ≠ .skp x ∧ i ≠ .sknp x ∧ i ≠ .ldVxK x) : t.pc = s.pc := by
  rw [exec_next_eq h]
  cases i
  case ret | jp | call | jpV0 | seImm | sneImm | seReg | sneReg | skp | sknp | ldVxK => simp at hi
  all_goals rfl

theorem exec_mem (hi : ∀ x, i ≠ .ldB x ∧ i ≠ .stRegs x) : t.mem = s.mem := by
  rw [exec_next_eq h]
  cases i
  case ldB | stRegs => simp at hi
  all_goals rfl

theorem exec_index (hi : ∀ nnn x, i ≠ .ldI nnn ∧ i ≠ .addI x ∧ i ≠ .ldF x) : t.index = s.index := by
  rw [exec_next_eq h]
  cases i
  case ldI | addI | ldF => simp at hi
  all_goals rfl

theorem exec_stack (hi : ∀ nnn, i ≠ .call nnn) : t.stack = s.stack := by
  rw [exec_next_eq h]
  cases i
  case call => simp at hi
  all_goals rfl

theorem exec_sp (hi : ∀ nnn, i ≠ .call nnn ∧ i ≠ .ret) : t.sp = s.sp := by
  rw [exec_next_eq h]
  cases i
  case call | ret => simp at hi
  all_goals rfl

theorem exec_disp_frame (hi : ∀ x y n, i ≠ .cls ∧ i ≠ .drw x y n) : t.disp = s.disp ∧ t.frame = s.frame := by
  rw [exec_next_eq h]
  cases i
  case cls | drw => simp at hi
  all_goals exact ⟨rfl, rfl⟩

theorem exec_dt (hi : ∀ x, i ≠ .ldDtVx x) : t.dt = s.dt := by
  rw [exec_next_eq h]
  cases i
  case ldDtVx => simp at hi
  all_goals rfl

theorem exec_st (hi : ∀ x, i ≠ .ldStVx x) : t.st = s.st := by
  rw [exec_next_eq h]
  cases i
  case ldStVx => simp at hi
  all_goals rfl

/-- No instruction writes `ACC`, the configuration or the inputs. -/
theorem exec_rest : t.acc = s.acc ∧ t.clockHz = s.clockHz ∧ t.timerPhase = s.timerPhase ∧ t.inputs = s.inputs ∧
    t.inputIndex = s.inputIndex := by
  rw [exec_next_eq h]
  cases i <;> exact ⟨rfl, rfl, rfl, rfl, rfl⟩

/-! ### The registers an instruction writes -/

theorem exec_getV {z : RegIx} (hz : writesReg i z = false) : t.getV z = s.getV z := by
  cases i
  case ldImm | addImm | ldReg | orReg | andReg | xorReg | rnd | ldVxDt =>
    cases h
    exact getV_setV_other _ _ (beq_eq_false_iff_ne.mp hz)
  case ldVxK x =>
    cases h
    split
    · rfl
    · exact getV_setV_other s _ (beq_eq_false_iff_ne.mp hz)
  case addReg | sub | subn =>
    cases h
    obtain ⟨hx, hvf⟩ := Bool.or_eq_false_iff.mp hz
    rw [getV_setV_setFlag, if_neg (beq_eq_false_iff_ne.mp hvf), if_neg (beq_eq_false_iff_ne.mp hx)]
  case shr | shl =>
    cases h
    obtain ⟨hx, hvf⟩ := Bool.or_eq_false_iff.mp hz
    rw [getV_setV, if_neg (beq_eq_false_iff_ne.mp hx), getV_setFlag, if_neg (beq_eq_false_iff_ne.mp hvf)]
  case drw x y n =>
    obtain ⟨-, -, hreg, -, -⟩ := exec_drw_next h
    exact hreg z (beq_eq_false_iff_ne.mp hz)
  case ldRegs x =>
    cases h
    have hlt : ¬z.toNat < x.toNat + 1 := by
      have := of_decide_eq_false hz
      rw [BitVec.le_def] at this
      omega
    rw [getV_loadRegs s _ (by omega), if_neg hlt]
  all_goals rw [exec_next_eq h]; rfl

end Elements

/-! ### The flag -/

/-- An instruction that is none of the six flag writers and does not name `V[15]` as a destination does not write it. -/
theorem writesReg_vf {i : Instr}
    (hflag : ∀ x y n, i ≠ .addReg x y ∧ i ≠ .sub x y ∧ i ≠ .subn x y ∧ i ≠ .shr x ∧ i ≠ .shl x ∧ i ≠ .drw x y n)
    (hdest : ∀ y kk, i ≠ .ldImm 15 kk ∧ i ≠ .addImm 15 kk ∧ i ≠ .ldReg 15 y ∧ i ≠ .orReg 15 y ∧ i ≠ .andReg 15 y ∧
      i ≠ .xorReg 15 y ∧ i ≠ .rnd 15 kk ∧ i ≠ .ldVxDt 15 ∧ i ≠ .ldVxK 15 ∧ i ≠ .ldRegs 15) : writesReg i 15 = false := by
  cases i
  case addReg | sub | subn | shr | shl | drw => simp at hflag
  case ldImm | addImm | ldReg | orReg | andReg | xorReg | rnd | ldVxDt | ldVxK =>
    refine beq_eq_false_iff_ne.mpr fun hx => ?_
    subst hx
    simp at hdest
  case ldRegs x =>
    refine decide_eq_false fun hle => ?_
    obtain rfl : x = 15 := by bv_omega
    simp at hdest
  all_goals rfl

/-- The flag of a shift stays as it was written where the register shifted is another. -/
theorem getV_vf_setFlag_setV {s : State} {x : RegIx} (hx : x ≠ 15) (c : Bool) (b : Byte) :
    ((s.setFlag c).setV x b).getV 15 = flagByte c := by
  rw [getV_setV_other _ _ hx.symm, getV_setFlag, if_pos rfl]

/-- What a flag writer leaves in `VF` is a flag. -/
theorem exec_getV_vf {i : Instr} {s t : State} (h : exec i s = .next t)
    (hi : ∃ x y n, i = .addReg x y ∨ i = .sub x y ∨ i = .subn x y ∨ i = .drw x y n ∨
      (x ≠ 15 ∧ (i = .shr x ∨ i = .shl x))) : t.getV 15 = 0 ∨ t.getV 15 = 1 := by
  obtain ⟨x, y, n, rfl | rfl | rfl | rfl | ⟨hx, rfl | rfl⟩⟩ := hi
  · cases h; rw [getV_setV_setFlag, if_pos rfl]; exact flagByte_cases _
  · cases h; rw [getV_setV_setFlag, if_pos rfl]; exact flagByte_cases _
  · cases h; rw [getV_setV_setFlag, if_pos rfl]; exact flagByte_cases _
  · obtain ⟨-, -, -, hvf, -⟩ := exec_drw_next h
    exact hvf
  · cases h; rw [getV_vf_setFlag_setV hx]; exact flagByte_cases _
  · cases h; rw [getV_vf_setFlag_setV hx]; exact flagByte_cases _

/-! ### The frame -/

/-- `CLS` and `DRW` put out the display that they leave. -/
theorem exec_frame_of_clear_or_draw {i : Instr} {s t : State} (h : exec i s = .next t)
    (hi : i = .cls ∨ ∃ x y n, i = .drw x y n) : t.frame = some t.disp := by
  obtain rfl | ⟨x, y, n, rfl⟩ := hi
  · cases h; rfl
  · obtain ⟨hframe, -⟩ := exec_drw_next h
    rw [hframe]

/-! ### What the inputs reach -/

theorem storeRegs_withInputs (s : State) (l : List StepInput) (n count : Nat) :
    (s.withInputs l n).storeRegs count = (s.storeRegs count).withInputs l n := by
  induction count with
  | zero => rfl
  | succ k ih => rw [State.storeRegs, State.storeRegs, ih]; rfl

theorem loadRegs_withInputs (s : State) (l : List StepInput) (n count : Nat) :
    (s.withInputs l n).loadRegs count = (s.loadRegs count).withInputs l n := by
  induction count with
  | zero => rfl
  | succ k ih => rw [State.loadRegs, State.loadRegs, ih]; rfl

theorem keyPressed_withInputs {s : State} {l : List StepInput} {n : Nat} (hk : (s.withInputs l n).keys = s.keys)
    (x : RegIx) : (s.withInputs l n).keyPressed x = s.keyPressed x := by
  rw [State.keyPressed, hk]; rfl

/-- Only the readers of the keys and of the random byte do something else with other inputs. -/
theorem exec_withInputs {i : Instr} {s : State} {l : List StepInput} {n : Nat}
    (hkeys : readsKeys i = true → (s.withInputs l n).keys = s.keys)
    (hrand : readsRand i = true → (s.withInputs l n).rand = s.rand) :
    exec i (s.withInputs l n) = mapNext (fun t => t.withInputs l n) (exec i s) := by
  cases i
  case rnd x kk => rw [exec_rnd, exec_rnd, hrand rfl]; rfl
  case skp x => rw [exec_skp, exec_skp, keyPressed_withInputs (hkeys rfl)]; rfl
  case sknp x => rw [exec_sknp, exec_sknp, keyPressed_withInputs (hkeys rfl)]; rfl
  case ldVxK x =>
    cases hk : leastPressed s.keys with
    | none =>
      have h0 := (leastPressed_eq_none_iff s.keys).mp hk
      rw [exec_ldVxK_of_no_key x h0, exec_ldVxK_of_no_key x ((hkeys rfl).trans h0)]; rfl
    | some k => rw [exec_ldVxK_of_key x hk, exec_ldVxK_of_key x ((congrArg leastPressed (hkeys rfl)).trans hk)]; rfl
  case call nnn =>
    by_cases hsp : s.sp.val < 16
    · rw [exec_call_of_lt nnn hsp, exec_call_of_lt nnn (s := s.withInputs l n) hsp]; rfl
    · have h16 : s.sp.val = 16 := by omega
      rw [exec_call_full nnn h16, exec_call_full nnn (s := s.withInputs l n) h16]; rfl
  case ret =>
    by_cases hsp : s.sp.val = 0
    · rw [exec_ret_empty hsp, exec_ret_empty (s := s.withInputs l n) hsp]; rfl
    · rw [exec_ret_of_ne hsp, exec_ret_of_ne (s := s.withInputs l n) hsp]; rfl
  case stRegs x => rw [exec_stRegs, exec_stRegs, storeRegs_withInputs]; rfl
  case ldRegs x => rw [exec_ldRegs, exec_ldRegs, loadRegs_withInputs]; rfl
  all_goals rfl

/-! ### The obligations -/

/-- Settles O19: element by element, from the table of what each instruction may write. -/
theorem onlyNamedInstructionsWriteEachElement : Obligations.OnlyNamedInstructionsWriteEachElement := by
  unfold Obligations.OnlyNamedInstructionsWriteEachElement
  exact fun i s t h => ⟨fun _ => exec_getV h, exec_pc h, exec_mem h, exec_index h, exec_stack h, exec_sp h,
    exec_disp_frame h, exec_dt h, exec_st h, exec_rest h⟩

/-- Settles O20: `VF` as one of the registers an instruction writes, and as the flag that the six write. -/
theorem flagRegisterHasSixWriters : Obligations.FlagRegisterHasSixWriters := by
  unfold Obligations.FlagRegisterHasSixWriters
  exact fun i s t h => ⟨fun hflag hdest => exec_getV h (writesReg_vf hflag hdest), exec_getV_vf h⟩

/-- Settles O21: the step begins with no frame, and only `CLS` and `DRW` write it. -/
theorem frameExactlyForClearAndDraw : Obligations.FrameExactlyForClearAndDraw := by
  unfold Obligations.FrameExactlyForClearAndDraw
  intro s t i hd h
  obtain ⟨j, u, hd', hu, rfl⟩ := step_next_cases h
  cases hd'.symm.trans hd
  rw [endStep_frame, endStep_disp]
  refine ⟨exec_frame_of_clear_or_draw hu, fun hn => ?_⟩
  obtain ⟨-, hframe⟩ := exec_disp_frame hu fun x y n => ⟨fun he => hn (.inl he), fun he => hn (.inr ⟨x, y, n, he⟩)⟩
  rw [hframe, beginStep_frame]

/-- Settles O22: instruction by instruction, the readers by the inputs that stay the same for them. -/
theorem inputsReachOnlyTheirReaders : Obligations.InputsReachOnlyTheirReaders := by
  unfold Obligations.InputsReachOnlyTheirReaders
  exact fun _ _ _ _ => exec_withInputs

end Sys2Proof.Machine
